-- ==== Sys2Proof/Word.lean ====
section
/-! DEFINITION. The word types of TF256-CC (00_scope.md R6, R7): a 64-bit word, the 8-bit fields of a command word, its 32-bit immediate, and a group of four words. -/

namespace Sys2Proof

/-- A u64 (R7). -/
abbrev Word := BitVec 64

/-- An 8-bit field of a command word (R42), and an opcode. -/
abbrev Byte := BitVec 8

/-- A u32 (R7): the `IMM` field and the halves of the 32-bit view. -/
abbrev Half := BitVec 32

/-- A 6-bit word address of the register space (R30). -/
abbrev Addr := BitVec 6

/-- A four-word group: `KEY`, `BLK`, `OUT` (R28), a cipher block or key, the captured engine inputs (R25). -/
structure Quad where
  w0 : Word
  w1 : Word
  w2 : Word
  w3 : Word
deriving DecidableEq, Repr

end Sys2Proof
end

