-- ==== Sys2Proof/Machine/CipherCore.lean ====
section
/-! DEFINITION. CipherCore: the function `E` of 40_cipher.md, Threefish-256 encryption with the tweak zero (R50 to R55). -/

namespace Sys2Proof.Machine.CipherCore

/-- The key-schedule parity constant (R50, as 90_conflicts.md C1 corrects it). -/
def c240 : Word := 0x1BD11BDAA9FC1A22#64

/-- The rotation table `ROT[0..15]` (R50). -/
def rotTable : List Nat := [14, 16, 52, 57, 23, 40, 5, 37, 25, 33, 46, 12, 58, 22, 32, 32]

/-- `R(d, j) = ROT[2 * (d mod 8) + j]` (R50). -/
def rot (d j : Nat) : Nat := rotTable.getD (2 * (d % 8) + j) 0

/-- `rotl64` (R8). -/
def rotl64 (v : Word) (r : Nat) : Word := (v <<< r) ||| (v >>> (64 - r))

/-- The parity word `ks[4]` (R51). -/
def parityWord (k : Quad) : Word := k.w0 ^^^ k.w1 ^^^ k.w2 ^^^ k.w3 ^^^ c240

/-- `ks[i mod 5]`, the extended key schedule (R51). -/
def keyWord (k : Quad) (i : Nat) : Word :=
  match i % 5 with
  | 0 => k.w0
  | 1 => k.w1
  | 2 => k.w2
  | 3 => k.w3
  | _ => parityWord k

/-- Subkey `s` (R52): its number is added to word 3. -/
def subkey (k : Quad) (s : Nat) : Quad :=
  ⟨keyWord k s, keyWord k (s + 1), keyWord k (s + 2), keyWord k (s + 3) + BitVec.ofNat 64 s⟩

/-- The word-by-word sum of R55's subkey additions. -/
def addQuad (w k : Quad) : Quad := ⟨w.w0 + k.w0, w.w1 + k.w1, w.w2 + k.w2, w.w3 + k.w3⟩

/-- `MIX(a, b, r)` (R53): the `xor` uses the new `a`. -/
def mix (a b : Word) (r : Nat) : Word × Word := (a + b, rotl64 b r ^^^ (a + b))

/-- Round `d` on the working words (R54). -/
def round (d : Nat) (w : Quad) : Quad :=
  if d % 2 = 0 then
    let p := mix w.w0 w.w1 (rot d 0)
    let q := mix w.w2 w.w3 (rot d 1)
    ⟨p.1, p.2, q.1, q.2⟩
  else
    let p := mix w.w0 w.w3 (rot d 0)
    let q := mix w.w2 w.w1 (rot d 1)
    ⟨p.1, q.2, q.1, p.2⟩

/-- Round `d`, and after every fourth round the injection of subkey `(d + 1) / 4` (R55). -/
def roundInject (k w : Quad) (d : Nat) : Quad :=
  if d % 4 = 3 then addQuad (round d w) (subkey k ((d + 1) / 4)) else round d w

/-- `E(K, P)` (R55): subkey 0, then 72 rounds. -/
def encrypt (k p : Quad) : Quad :=
  (List.range 72).foldl (roundInject k) (addQuad p (subkey k 0))

end Sys2Proof.Machine.CipherCore
end

