-- ==== Sys2Proof/Config.lean ====
section
/-! DEFINITION. What one instance of TF256-CC fixes: the open parameter `CC_LATENCY` (00_scope.md R3, R6; 92_eei_decisions.md D13). -/

namespace Sys2Proof

/-- The per-instance parameter. `latencyPred` is `CC_LATENCY - 1`, so every value of this type is a legal instance: an integer at least 1 (R6). -/
structure Config.Instance where
  latencyPred : Nat
deriving DecidableEq, Repr, Inhabited

/-- `CC_LATENCY`: the number of cycles from the issue of an engine command to its completion (R6). -/
def Config.Instance.ccLatency (c : Config.Instance) : Nat :=
  c.latencyPred + 1

/-- The instance that `State.reset` describes. It has no body: nothing can be proved about its latency but that it is at least 1, so a statement about it holds for every instance. DESIGN CHOICE, log 1. -/
opaque Config.thisInstance : Config.Instance

end Sys2Proof
end

