-- ==== Sys2Proof/Syntax.lean ====
section
/-! DEFINITION. The eleven instructions of spec/opcode_table.json: the two host transactions (format BUS, R41) and the nine commands (format CMD64, R42, R44). -/

namespace Sys2Proof

/-- One constructor per row of the opcode table. A command's fields are those R44 lists as used. -/
inductive Instr where
  /-- `REG_READ` (20_memory.md R33). -/
  | regRead (addr : Addr)
  /-- `REG_WRITE` (20_memory.md R34). -/
  | regWrite (addr : Addr) (wdata : Word)
  /-- `NOP` (42_accumulator.md R67). -/
  | nop
  /-- `ENCRYPT` (40_cipher.md R62). -/
  | encrypt
  /-- `MASH` (41_mixer.md R64). -/
  | mash
  /-- `REKEY` (41_mixer.md R65). -/
  | rekey
  /-- `ACC_CLEAR` (42_accumulator.md R68). -/
  | accClear
  /-- `ACC_SETBIT A` (42_accumulator.md R69). -/
  | accSetbit (a : Byte)
  /-- `ACC_INSERT IMM, B, A` (42_accumulator.md R70). -/
  | accInsert (imm : Half) (b a : Byte)
  /-- `ACC_CARRY IMM, B, A` (42_accumulator.md R71). -/
  | accCarry (imm : Half) (b a : Byte)
  /-- `CNT_INC` (42_accumulator.md R72). -/
  | cntInc
deriving DecidableEq, Repr

end Sys2Proof
end

