-- ==== Sys2Proof/WellFormed.lean ====
section
/-! DEFINITION. Which instructions are well formed: the argument ranges of 30_encoding.md R44. Field widths are in the types of Syntax.lean. -/

namespace Sys2Proof

/-- R44, "legal ranges": ACC_SETBIT needs `A` at most 63; ACC_INSERT and ACC_CARRY need `A` at most 64 and `B` at most 32. Every transaction and every other command is well formed (R41, R44). -/
def Instr.wellFormed : Instr → Bool
  | .regRead _ => true
  | .regWrite _ _ => true
  | .nop => true
  | .encrypt => true
  | .mash => true
  | .rekey => true
  | .accClear => true
  | .accSetbit a => decide (a.toNat ≤ 63)
  | .accInsert _ b a => decide (a.toNat ≤ 64) && decide (b.toNat ≤ 32)
  | .accCarry _ b a => decide (a.toNat ≤ 64) && decide (b.toNat ≤ 32)
  | .cntInc => true

/-- The well-formed instructions, as a proposition. -/
abbrev WellFormed (i : Instr) : Prop := i.wellFormed = true

end Sys2Proof
end

