-- ==== Sys2Proof/Decode.lean ====
section
/-! DEFINITION. The decoder and the encoder of host transactions (30_encoding.md R41) and command words (R42 to R46), and the codes a rejection carries (60_exceptions.md R75). -/

namespace Sys2Proof

/-- The error codes of R75, as recorded in `STATUS.ERRCODE`. Codes 5 to 15 are never produced (I4), so they have no constructor (log 6). -/
inductive ErrCode where
  /-- 0: no rejection since `ERR` was last cleared. -/
  | none
  /-- 1: `v[7:0]` is not an assigned opcode (R46). -/
  | illegalOp
  /-- 2: a reserved field is not 0 (R45). -/
  | reservedField
  /-- 3: a field is out of its range (R44). -/
  | invalidArg
  /-- 4: a command was written while `BUSY` = 1. -/
  | busy
deriving DecidableEq, Repr

/-- The opcodes of R44. -/
inductive CmdOp where
  | nop
  | encrypt
  | mash
  | rekey
  | accClear
  | accSetbit
  | accInsert
  | accCarry
  | cntInc
deriving DecidableEq, Repr

/-- One host transaction, format BUS (R41). -/
structure Txn where
  we : Bool
  addr : Addr
  wdata : Word
deriving DecidableEq, Repr

/-! The fields of a command word (R42). -/

/-- `OP`, `v[7:0]`. -/
def fieldOp (v : Word) : Byte := v.extractLsb' 0 8

/-- `A`, `v[15:8]`. -/
def fieldA (v : Word) : Byte := v.extractLsb' 8 8

/-- `B`, `v[23:16]`. -/
def fieldB (v : Word) : Byte := v.extractLsb' 16 8

/-- `RSV`, `v[31:24]`. -/
def fieldRsv (v : Word) : Byte := v.extractLsb' 24 8

/-- `IMM`, `v[63:32]`. -/
def fieldImm (v : Word) : Half := v.extractLsb' 32 32

/-! The opcode map (R44). -/

/-- The opcode number of each command (R44). -/
def CmdOp.code : CmdOp → Byte
  | .nop => 0x00#8
  | .encrypt => 0x01#8
  | .mash => 0x02#8
  | .rekey => 0x03#8
  | .accClear => 0x10#8
  | .accSetbit => 0x11#8
  | .accInsert => 0x12#8
  | .accCarry => 0x13#8
  | .cntInc => 0x14#8

/-- The rows of the opcode map, in its order. -/
def CmdOp.all : List CmdOp :=
  [.nop, .encrypt, .mash, .rekey, .accClear, .accSetbit, .accInsert, .accCarry, .cntInc]

/-- The command an opcode number selects; `none` for the unassigned numbers (R46). -/
def opOf (op : Byte) : Option CmdOp :=
  CmdOp.all.find? (fun o => o.code == op)

/-- Whether the command uses the field `A` (R44, "fields used"). -/
def CmdOp.usesA : CmdOp → Bool
  | .accSetbit => true
  | .accInsert => true
  | .accCarry => true
  | .nop => false
  | .encrypt => false
  | .mash => false
  | .rekey => false
  | .accClear => false
  | .cntInc => false

/-- Whether the command uses the fields `B` and `IMM` (R44, "fields used"). -/
def CmdOp.usesBImm : CmdOp → Bool
  | .accInsert => true
  | .accCarry => true
  | .nop => false
  | .encrypt => false
  | .mash => false
  | .rekey => false
  | .accClear => false
  | .accSetbit => false
  | .cntInc => false

/-- R45: `RSV` and every field the command does not use are 0. -/
def reservedClear (op : CmdOp) (v : Word) : Bool :=
  fieldRsv v == 0#8
    && (op.usesA || fieldA v == 0#8)
    && (op.usesBImm || (fieldB v == 0#8 && fieldImm v == 0#32))

/-- The range check of ACC_SETBIT (R44, R69). -/
def setbitArgOk (a : Byte) : Bool := decide (a.toNat ≤ 63)

/-- The range checks of ACC_INSERT and ACC_CARRY (R44, R70, R71). -/
def shiftArgsOk (b a : Byte) : Bool := decide (a.toNat ≤ 64) && decide (b.toNat ≤ 32)

/-- The range checks of one opcode (R44, "legal ranges"). -/
def CmdOp.argsOk (op : CmdOp) (b a : Byte) : Bool :=
  match op with
  | .nop => true
  | .encrypt => true
  | .mash => true
  | .rekey => true
  | .accClear => true
  | .accSetbit => setbitArgOk a
  | .accInsert => shiftArgsOk b a
  | .accCarry => shiftArgsOk b a
  | .cntInc => true

/-- The instruction of an opcode and its fields (R43). -/
def CmdOp.instr (op : CmdOp) (imm : Half) (b a : Byte) : Instr :=
  match op with
  | .nop => .nop
  | .encrypt => .encrypt
  | .mash => .mash
  | .rekey => .rekey
  | .accClear => .accClear
  | .accSetbit => .accSetbit a
  | .accInsert => .accInsert imm b a
  | .accCarry => .accCarry imm b a
  | .cntInc => .cntInc

/-- Steps 2 and 3 of R44's decoder: the opcode, or the rejection `ILLEGAL_OP` or `RESERVED_FIELD`. -/
def decodeOp (v : Word) : Except ErrCode CmdOp :=
  match opOf (fieldOp v) with
  | none => .error .illegalOp
  | some op => if reservedClear op v then .ok op else .error .reservedField

/-- Steps 2 to 4 of R44's decoder: the command a word stands for, or the code that names why it stands for none. Step 1, `BUSY`, is a matter of the state (R76). -/
def decodeCmd (v : Word) : Except ErrCode Instr :=
  match decodeOp v with
  | .error c => .error c
  | .ok op =>
    if op.argsOk (fieldB v) (fieldA v) then
      .ok (op.instr (fieldImm v) (fieldB v) (fieldA v))
    else .error .invalidArg

/-- The instruction of a transaction: every one is legal (R41). -/
def decodeBus (t : Txn) : Instr :=
  if t.we then .regWrite t.addr t.wdata else .regRead t.addr

/-- The address of the command port `CMD` (R18, R31). -/
def cmdAddr : Addr := 0x18#6

/-- The transaction with the 7-bit header `H = (we << 6) | addr` (R41). -/
def txnOfHeader (h : BitVec 7) (wdata : Word) : Txn :=
  { we := h.getLsbD 6, addr := h.extractLsb' 0 6, wdata := wdata }

/-! The encoder. -/

/-- The header `H = (we << 6) | addr` of a transaction (R41). -/
def header (t : Txn) : BitVec 7 := BitVec.ofBool t.we ++ t.addr

/-- A command word from its fields, `RSV` = 0 (R42). -/
def cmdWord (op : CmdOp) (imm : Half) (b a : Byte) : Word :=
  imm ++ (0#8 ++ (b ++ (a ++ op.code)))

/-- The write of a command word to `CMD` (R42). -/
def cmdTxn (v : Word) : Txn := { we := true, addr := cmdAddr, wdata := v }

/-- The transaction of an instruction: of `REG_READ` and `REG_WRITE` their own, with `wdata` = 0 for a read (R41); of a command the write of its word to `CMD` (R44, R48). -/
def encode : Instr → Txn
  | .regRead addr => { we := false, addr := addr, wdata := 0#64 }
  | .regWrite addr wdata => { we := true, addr := addr, wdata := wdata }
  | .nop => cmdTxn (cmdWord .nop 0#32 0#8 0#8)
  | .encrypt => cmdTxn (cmdWord .encrypt 0#32 0#8 0#8)
  | .mash => cmdTxn (cmdWord .mash 0#32 0#8 0#8)
  | .rekey => cmdTxn (cmdWord .rekey 0#32 0#8 0#8)
  | .accClear => cmdTxn (cmdWord .accClear 0#32 0#8 0#8)
  | .accSetbit a => cmdTxn (cmdWord .accSetbit 0#32 0#8 a)
  | .accInsert imm b a => cmdTxn (cmdWord .accInsert imm b a)
  | .accCarry imm b a => cmdTxn (cmdWord .accCarry imm b a)
  | .cntInc => cmdTxn (cmdWord .cntInc 0#32 0#8 0#8)

/-! The opcode table's own numbering of bits. -/

/-- The transaction that the opcode table's bits stand for (log 10): a row of at most 8 bits is a BUS header in one byte, whose bit 7 must be 0, with `wdata` = 0; a longer row is a CMD64 word, written to `CMD`. -/
def tableTxn (nbits w : Nat) : Option Txn :=
  if nbits ≤ 8 then
    if w < 2 ^ 7 then some (txnOfHeader (BitVec.ofNat 7 w) 0#64) else none
  else if w < 2 ^ 64 then some (cmdTxn (BitVec.ofNat 64 w)) else none

/-- What this decoder reads from a row's bits, numbered as spec/opcode_table.json numbers them (log 10). -/
def decodeTableWord (nbits w : Nat) : Option Instr :=
  if nbits ≤ 8 then (tableTxn nbits w).map decodeBus
  else
    match tableTxn nbits w with
    | none => none
    | some t => (decodeCmd t.wdata).toOption

end Sys2Proof
end

