-- ==== Sys2Proof/Machine/State.lean ====
section
/-! DEFINITION. The state of one TF256-CC instance (10_state.md R11), its value after reset (R29), and the outcome types of a step. -/

namespace Sys2Proof.Machine

/-- The reasons the machine could stop with a fault: there are none. CipherCore, completion and host transactions raise no exception (R58, R74), every transaction is legal (R41) and every command word has exactly one outcome (R46). Log 12. -/
inductive Fault where
deriving DecidableEq, Repr

/-- The reasons the model could give no meaning to an instruction. -/
inductive Refusal where
  /-- Raised by an arm of `exec` whose instruction has no meaning yet; no arm of this model raises it. Safe: the machine stops where the hardware goes on. -/
  | notModelled (mnemonic : String)
deriving DecidableEq, Repr

/-- What the host presents in one clock cycle: the reset input (R85) and at most one transaction (R32). -/
structure PortInput where
  rst : Bool
  txn : Option Txn
deriving DecidableEq, Repr

/-- The names of the register map (R31). -/
inductive RegName where
  | key (i : Fin 4)
  | blk (i : Fin 4)
  | count
  | bits
  | out (i : Fin 4)
  | out32 (j : Fin 8)
  | cmd
  | status
  | ctrl
  | id
  | reserved
deriving DecidableEq, Repr

/-- The state. `inst`, `host` and `rdata` are the model's own fields (logs 1, 2, 3); the rest is R11's list. -/
structure State where
  /-- The parameter of this instance (R6); no step changes it. Log 1. -/
  inst : Config.Instance
  /-- `KEY0..3` (R12). -/
  key : Quad
  /-- `BLK0..3` (R13). -/
  blk : Quad
  /-- `COUNT` (R14). -/
  count : Word
  /-- `BITS` (R15). -/
  bits : Word
  /-- `OUT0..3` (R16). -/
  out : Quad
  /-- `STATUS.BUSY` (R19). -/
  busy : Bool
  /-- `STATUS.DONE` (R20). -/
  done : Bool
  /-- `STATUS.ERR` (R21). -/
  err : Bool
  /-- `STATUS.ERRCODE` (R21, R75). -/
  errcode : ErrCode
  /-- `STATUS.LASTOP` (R22). -/
  lastop : Byte
  /-- `CTRL.DONE_IE` (R23). -/
  doneIe : Bool
  /-- `CTRL.ERR_IE` (R23). -/
  errIe : Bool
  /-- `ENG_OP` (R25). -/
  engOp : Byte
  /-- `ENG_KEY[0..3]` (R25). -/
  engKey : Quad
  /-- `ENG_IN[0..3]` (R25). -/
  engIn : Quad
  /-- `REM` (R25): the cycles left before completion. Log 5. -/
  rem : Nat
  /-- What the host presents in the coming cycles, the next one first; when it is empty the port is idle. Log 2. -/
  host : List PortInput
  /-- What the port returned in the last cycle (R32); `none` when that cycle carried no read. Log 3. -/
  rdata : Option Word
deriving DecidableEq, Repr

/-- The reset value of every piece of state (R29), for one instance. -/
def State.resetFor (c : Config.Instance) : State where
  inst := c
  key := ⟨0#64, 0#64, 0#64, 0#64⟩
  blk := ⟨0#64, 0#64, 0#64, 0#64⟩
  count := 0#64
  bits := 0#64
  out := ⟨0#64, 0#64, 0#64, 0#64⟩
  busy := false
  done := false
  err := false
  errcode := .none
  lastop := 0#8
  doneIe := false
  errIe := false
  engOp := 0#8
  engKey := ⟨0#64, 0#64, 0#64, 0#64⟩
  engIn := ⟨0#64, 0#64, 0#64, 0#64⟩
  rem := 0
  host := []
  rdata := none

/-- The machine right after reset (R29), the host having presented nothing yet. -/
def State.reset : State := State.resetFor Config.thisInstance

/-- The three outcomes of a step of this machine. -/
abbrev Outcome := Host.Outcome State Fault Refusal

end Sys2Proof.Machine
end

