-- ==== Sys2Proof/Machine/Operands.lean ====
section
/-! DEFINITION. The operand forms: the words of a four-word group, the register map (20_memory.md R31), the 32-bit view (R17, R56), and the path-bit operands of the accumulator commands (00_scope.md R8, 30_encoding.md R43). -/

namespace Sys2Proof.Machine

/-- Word `i` of a group, `x[KEY][i]` (R9). -/
def quadGet (q : Quad) (i : Fin 4) : Word :=
  match i with
  | 0 => q.w0
  | 1 => q.w1
  | 2 => q.w2
  | 3 => q.w3

/-- The group with word `i` replaced. -/
def quadSet (q : Quad) (i : Fin 4) (v : Word) : Quad :=
  match i with
  | 0 => { q with w0 := v }
  | 1 => { q with w1 := v }
  | 2 => { q with w2 := v }
  | 3 => { q with w3 := v }

/-- The register at a word address (R31). -/
def regAt (a : Addr) : RegName :=
  let n := a.toNat
  if n < 0x04 then .key (Fin.ofNat 4 n)
  else if n < 0x08 then .blk (Fin.ofNat 4 (n - 0x04))
  else if n = 0x08 then .count
  else if n = 0x09 then .bits
  else if n < 0x0C then .reserved
  else if n < 0x10 then .out (Fin.ofNat 4 (n - 0x0C))
  else if n < 0x18 then .out32 (Fin.ofNat 8 (n - 0x10))
  else if n = 0x18 then .cmd
  else if n = 0x19 then .status
  else if n = 0x1A then .ctrl
  else if n = 0x1B then .id
  else .reserved

/-- The high half of a word, `v[63:32]`. -/
def highHalf (v : Word) : Half := v.extractLsb' 32 32

/-- The low half of a word, `v[31:0]`. -/
def lowHalf (v : Word) : Half := v.extractLsb' 0 32

/-- `zext64` of a u32 (R7). -/
def zext64 (h : Half) : Word := h.setWidth 64

/-- Word `j` of the 32-bit view, high half first (R17, R56). -/
def out32 (q : Quad) (j : Fin 8) : Word :=
  let v := quadGet q (Fin.ofNat 4 (j.val / 2))
  if j.val % 2 = 0 then zext64 (highHalf v) else zext64 (lowHalf v)

/-- `mask(n) = 2^n - 1`, exact (R8, D9). -/
def mask (n : Nat) : Nat := 2 ^ n - 1

/-- `trunc64(v) = v mod 2^64` (R8). -/
def trunc64 (v : Nat) : Word := BitVec.ofNat 64 v

/-- `b = IMM & mask(B)` (R43). -/
def pathBits (imm : Half) (b : Byte) : Nat := imm.toNat &&& mask b.toNat

/-- `1 << A` as a word (R69). -/
def setbitOperand (a : Byte) : Word := trunc64 (1 <<< a.toNat)

/-- `trunc64(b << A)` (R70): the shift is exact and the bits above bit 63 are dropped (D10). -/
def insertOperand (imm : Half) (b a : Byte) : Word := trunc64 (pathBits imm b <<< a.toNat)

/-- `b >> A` (R71). -/
def carryOperand (imm : Half) (b a : Byte) : Word := trunc64 (pathBits imm b >>> a.toNat)

/-- The block of a Mixer call, `[BITS, COUNT, 0, 0]` (R63). -/
def mixBlock (bits count : Word) : Quad := ⟨bits, count, 0#64, 0#64⟩

/-- The value of `ID` (R24): `TF256CC` in ASCII, then the revision 7. -/
def idValue : Word := 0x5446323536434307#64

end Sys2Proof.Machine
end

