-- ==== Sys2Proof/Machine/Flags.lean ====
section
/-! DEFINITION. The flags: the codes of `ERRCODE` (60_exceptions.md R75), the read values of `STATUS` and `CTRL` (10_state.md R22, R23), the write effects on them (R20, R21, R23), and the `irq` output (R80). -/

namespace Sys2Proof.Machine

/-- The number of an error code (R75), the 4 bits of `STATUS.ERRCODE`. -/
def errNumber : ErrCode → BitVec 4
  | .none => 0#4
  | .illegalOp => 1#4
  | .reservedField => 2#4
  | .invalidArg => 3#4
  | .busy => 4#4

/-- The read value of `STATUS` (R22). -/
def statusWord (s : State) : Word :=
  (s.lastop.setWidth 64 <<< 8) ||| ((errNumber s.errcode).setWidth 64 <<< 4)
    ||| ((BitVec.ofBool s.err).setWidth 64 <<< 2)
    ||| ((BitVec.ofBool s.done).setWidth 64 <<< 1)
    ||| (BitVec.ofBool s.busy).setWidth 64

/-- The read value of `CTRL` (R23). -/
def ctrlWord (s : State) : Word :=
  ((BitVec.ofBool s.errIe).setWidth 64 <<< 1) ||| (BitVec.ofBool s.doneIe).setWidth 64

/-- `DONE <- 0`, the W1C of `STATUS` bit 1 (R20). -/
def State.clearDone (s : State) : State := { s with done := false }

/-- `ERR <- 0; ERRCODE <- 0`, the W1C of `STATUS` bit 2 (R21). -/
def State.clearErr (s : State) : State := { s with err := false, errcode := .none }

/-- `DONE_IE <- v[0]; ERR_IE <- v[1]` (R23). -/
def State.setCtrl (s : State) (v : Word) : State :=
  { s with doneIe := v.getLsbD 0, errIe := v.getLsbD 1 }

/-- The `irq` output, from the state at the end of a cycle (R80). -/
def irq (s : State) : Bool := (s.done && s.doneIe) || (s.err && s.errIe)

end Sys2Proof.Machine
end

