-- ==== Sys2Proof/Machine/Ops.lean ====
section
/-! DEFINITION. The named operations of the machine: reading and writing registers, rejecting a command and clearing what it recorded (60_exceptions.md R77, R79), accepting a command, engine issue and completion (40_cipher.md R59, R60), and what begins a cycle (20_memory.md R32, 70_reset_and_hazards.md R85). -/

namespace Sys2Proof.Machine

/-! Register updates. -/

/-- `KEY0..3`, all four. -/
def State.setKey (s : State) (q : Quad) : State := { s with key := q }

/-- `BLK0..3`, all four. -/
def State.setBlk (s : State) (q : Quad) : State := { s with blk := q }

/-- `COUNT`. -/
def State.setCount (s : State) (v : Word) : State := { s with count := v }

/-- `BITS`. -/
def State.setBits (s : State) (v : Word) : State := { s with bits := v }

/-- `LASTOP` (R22). -/
def State.setLastop (s : State) (op : Byte) : State := { s with lastop := op }

/-- What the port returns in this cycle (R32). -/
def State.setRdata (s : State) (v : Option Word) : State := { s with rdata := v }

/-- The inputs the host has still to present (log 2). -/
def State.setHost (s : State) (h : List PortInput) : State := { s with host := h }

/-! The register space. -/

/-- The value a read of a register returns (R31, "read returns"). -/
def readReg (s : State) (a : Addr) : Word :=
  match regAt a with
  | .key i => quadGet s.key i
  | .blk i => quadGet s.blk i
  | .count => s.count
  | .bits => s.bits
  | .out i => quadGet s.out i
  | .out32 j => out32 s.out j
  | .cmd => 0#64
  | .status => statusWord s
  | .ctrl => ctrlWord s
  | .id => idValue
  | .reserved => 0#64

/-- The write effect on `STATUS` (R34): bit 1 clears `DONE`; bit 2 clears `ERR` and `ERRCODE`. -/
def State.writeStatus (s : State) (v : Word) : State :=
  let s1 := if v.getLsbD 1 then s.clearDone else s
  if v.getLsbD 2 then s1.clearErr else s1

/-- The write effect of every register but `CMD` (R31, R34). A write to `CMD` is a command (R76) and is not this operation's. -/
def State.writeReg (s : State) (r : RegName) (v : Word) : State :=
  match r with
  | .key i => s.setKey (quadSet s.key i v)
  | .blk i => s.setBlk (quadSet s.blk i v)
  | .count => s.setCount v
  | .bits => s.setBits v
  | .out _ => s
  | .out32 _ => s
  | .cmd => s
  | .status => s.writeStatus v
  | .ctrl => s.setCtrl v
  | .id => s
  | .reserved => s

/-! Commands: rejection and acceptance. -/

/-- `raise CmdError(code)` (R77): the first rejection is recorded, and nothing else changes. -/
def State.cmdError (s : State) (c : ErrCode) : State :=
  if s.err then s else { s with err := true, errcode := c }

/-- The first check of `Command(v)` (R76): while `BUSY` = 1 every command is rejected with `BUSY`. -/
def State.whenIdle (s : State) (f : State → State) : State :=
  if s.busy then s.cmdError .busy else f s

/-- A check that rejects with `INVALID_ARG` (R69, R70, R71, R76). -/
def State.whenArgs (s : State) (ok : Bool) (f : State → State) : State :=
  if ok then f s else s.cmdError .invalidArg

/-! The engine. -/

/-- Engine issue (R59) of the opcode `op` with the block `b`: the key and the block are captured. -/
def State.issue (s : State) (op : Byte) (b : Quad) : State :=
  { s with
    engOp := op
    engKey := s.key
    engIn := b
    rem := s.inst.ccLatency
    busy := true
    lastop := op }

/-- The key a completion leaves (R60): the result if the command is REKEY (R65), else the key as it was. -/
def completionKey (op : Byte) (r key : Quad) : Quad :=
  if op = CmdOp.rekey.code then r else key

/-- The completion of the engine command in flight with the result `r` (R60). -/
def State.complete (s : State) (r : Quad) : State :=
  { s with
    rem := 0
    out := r
    key := completionKey s.engOp r s.key
    busy := false
    done := true }

/-- `REM <- REM - 1` without completion (R60). -/
def State.setRem (s : State) (n : Nat) : State := { s with rem := n }

/-- Phase (a) of a cycle (R60). -/
def State.enginePhase (s : State) : State :=
  if s.busy then
    if s.rem - 1 = 0 then s.complete (CipherCore.encrypt s.engKey s.engIn)
    else s.setRem (s.rem - 1)
  else s

/-! The cycle. -/

/-- What the host presents in this cycle: the head of its inputs, or an idle port (log 2). -/
def State.input (s : State) : PortInput := s.host.headD { rst := false, txn := none }

/-- The state at the start of a cycle: the input is taken and the port returns nothing yet. -/
def State.beginCycle (s : State) : State := (s.setHost s.host.tail).setRdata none

/-- What the port returns in a cycle with `rst` = 1 (R85): a read returns 0. -/
def resetRdata (t : Option Txn) : Option Word :=
  match t with
  | none => none
  | some t => if t.we then none else some 0#64

/-- A cycle with `rst` = 1 (R85): every piece of state is reset and the transaction is dropped. The instance and the host's coming inputs are no state of the block and stay. -/
def State.resetCycle (s : State) (t : Option Txn) : State :=
  ((State.resetFor s.inst).setHost s.host).setRdata (resetRdata t)

/-- The host presents the transaction `t` in the next cycle, before what it was to present. -/
def State.present (s : State) (t : Txn) : State :=
  s.setHost ({ rst := false, txn := some t } :: s.host)

/-- The host presents, in the next cycle, the transaction the opcode table's bits stand for (logs 2 and 10); bits that stand for none leave the state as it is. -/
def State.presentTableWord (s : State) (nbits w : Nat) : State :=
  match tableTxn nbits w with
  | none => s
  | some t => s.present t

end Sys2Proof.Machine
end

