-- ==== Sys2Proof/Machine/Accumulator.lean ====
section
/-! DEFINITION. The immediate commands (42_accumulator.md R67 to R73). -/

namespace Sys2Proof.Machine

/-- `NOP` (R67). -/
def execNop (s : State) : Outcome :=
  .next (s.whenIdle fun s => s.setLastop CmdOp.nop.code)

/-- `ACC_CLEAR` (R68). -/
def execAccClear (s : State) : Outcome :=
  .next (s.whenIdle fun s => ((s.setCount 0#64).setBits 0#64).setLastop CmdOp.accClear.code)

/-- `ACC_SETBIT A` (R69). -/
def execAccSetbit (a : Byte) (s : State) : Outcome :=
  .next (s.whenIdle fun s => s.whenArgs (setbitArgOk a) fun s =>
    (s.setBits (s.bits ||| setbitOperand a)).setLastop CmdOp.accSetbit.code)

/-- `ACC_INSERT IMM, B, A` (R70). -/
def execAccInsert (imm : Half) (b a : Byte) (s : State) : Outcome :=
  .next (s.whenIdle fun s => s.whenArgs (shiftArgsOk b a) fun s =>
    (s.setBits (s.bits ||| insertOperand imm b a)).setLastop CmdOp.accInsert.code)

/-- `ACC_CARRY IMM, B, A` (R71): it replaces `BITS`. -/
def execAccCarry (imm : Half) (b a : Byte) (s : State) : Outcome :=
  .next (s.whenIdle fun s => s.whenArgs (shiftArgsOk b a) fun s =>
    (s.setBits (carryOperand imm b a)).setLastop CmdOp.accCarry.code)

/-- `CNT_INC` (R72): the sum wraps. -/
def execCntInc (s : State) : Outcome :=
  .next (s.whenIdle fun s => (s.setCount (s.count + 1#64)).setLastop CmdOp.cntInc.code)

end Sys2Proof.Machine
end

