-- ==== Sys2Proof/Machine/Cipher.lean ====
section
/-! DEFINITION. The command ENCRYPT (40_cipher.md R62). -/

namespace Sys2Proof.Machine

/-- `ENCRYPT` (R62): issue with the block `BLK`. -/
def execEncrypt (s : State) : Outcome :=
  .next (s.whenIdle fun s => s.issue CmdOp.encrypt.code s.blk)

end Sys2Proof.Machine
end

