-- ==== Sys2Proof/Machine/Mixer.lean ====
section
/-! DEFINITION. The Mixer commands MASH and REKEY (41_mixer.md R63 to R65). -/

namespace Sys2Proof.Machine

/-- `MASH` (R64): issue with the block `[BITS, COUNT, 0, 0]`. -/
def execMash (s : State) : Outcome :=
  .next (s.whenIdle fun s => s.issue CmdOp.mash.code (mixBlock s.bits s.count))

/-- `REKEY` (R65): issue with the block `[BITS, COUNT, 0, 0]`; its completion also replaces the key. -/
def execRekey (s : State) : Outcome :=
  .next (s.whenIdle fun s => s.issue CmdOp.rekey.code (mixBlock s.bits s.count))

end Sys2Proof.Machine
end

