-- ==== Sys2Proof/Machine/Bus.lean ====
section
/-! DEFINITION. The host transactions REG_READ and REG_WRITE (20_memory.md R33, R34) and the handling of a write to `CMD` (60_exceptions.md R76). -/

namespace Sys2Proof.Machine

/-- The last step of `Command(v)` (R76): execute the command with its fields. -/
def runCmd (op : CmdOp) (imm : Half) (b a : Byte) (s : State) : Outcome :=
  match op with
  | .nop => execNop s
  | .encrypt => execEncrypt s
  | .mash => execMash s
  | .rekey => execRekey s
  | .accClear => execAccClear s
  | .accSetbit => execAccSetbit a s
  | .accInsert => execAccInsert imm b a s
  | .accCarry => execAccCarry imm b a s
  | .cntInc => execCntInc s

/-- `Command(v)` (R76): `BUSY`, then `ILLEGAL_OP`, then `RESERVED_FIELD`; the command itself checks its ranges. -/
def command (v : Word) (s : State) : Outcome :=
  if s.busy then .next (s.cmdError .busy)
  else
    match decodeOp v with
    | .error c => .next (s.cmdError c)
    | .ok op => runCmd op (fieldImm v) (fieldB v) (fieldA v) s

/-- `REG_READ` (R33): the port returns the register's value, and no state of the block changes. -/
def execRegRead (addr : Addr) (s : State) : Outcome :=
  .next (s.setRdata (some (readReg s addr)))

/-- `REG_WRITE` (R34). -/
def execRegWrite (addr : Addr) (wdata : Word) (s : State) : Outcome :=
  match regAt addr with
  | .cmd => command wdata s
  | r => .next (s.writeReg r wdata)

end Sys2Proof.Machine
end

