-- ==== Sys2Proof/Machine/Dispatch.lean ====
section
/-! DEFINITION. The meaning of each instruction, in phase (b) of a cycle (20_memory.md R32): one arm per constructor. -/

namespace Sys2Proof.Machine

def exec (i : Instr) (s : State) : Host.Outcome State Fault Refusal :=
  match i with
  | .regRead addr => Sys2Proof.Machine.execRegRead addr s
  | .regWrite addr wdata => Sys2Proof.Machine.execRegWrite addr wdata s
  | .nop => Sys2Proof.Machine.execNop s
  | .encrypt => Sys2Proof.Machine.execEncrypt s
  | .mash => Sys2Proof.Machine.execMash s
  | .rekey => Sys2Proof.Machine.execRekey s
  | .accClear => Sys2Proof.Machine.execAccClear s
  | .accSetbit a => Sys2Proof.Machine.execAccSetbit a s
  | .accInsert imm b a => Sys2Proof.Machine.execAccInsert imm b a s
  | .accCarry imm b a => Sys2Proof.Machine.execAccCarry imm b a s
  | .cntInc => Sys2Proof.Machine.execCntInc s

end Sys2Proof.Machine
end

