-- ==== Sys2Proof/Machine/Cycle.lean ====
section
/-! DEFINITION. One clock cycle (20_memory.md R32, 70_reset_and_hazards.md R85). Log 4. -/

namespace Sys2Proof.Machine

/-- Phase (b): the transaction of the cycle, if any, on the state phase (a) left (R32). -/
def transact (t : Option Txn) (s : State) : Outcome :=
  match t with
  | none => .next s
  | some t => exec (decodeBus t) s

/-- A cycle with `rst` = 1 is a reset cycle (R85); any other is phase (a), then phase (b) (R32). -/
def cycle (s : State) : Outcome :=
  if s.input.rst then .next (s.beginCycle.resetCycle s.input.txn)
  else transact s.input.txn s.beginCycle.enginePhase

end Sys2Proof.Machine
end

