-- ==== Sys2Proof/Machine/Step.lean ====
section
/-! DEFINITION. The step of the machine is one clock cycle (log 4). -/

namespace Sys2Proof.Machine

/-- One step: one clock cycle. -/
def step (s : State) : Host.Outcome State Fault Refusal := cycle s

/-- The state in which the host presents, in the next cycle, the transaction the opcode table's bits stand for (logs 2 and 10). -/
def State.withFetchWord (s : State) (nbits w : Nat) : State := s.presentTableWord nbits w

end Sys2Proof.Machine
end

