-- ==== Sys2Proof/Machine/Assembler.lean ====
section
/-! DEFINITION. The host-program notation of 30_encoding.md R48 and R49: its statements as abstract syntax, and the transactions each expands to. The text of a program (comments, number bases) is notation only and has no counterpart here. -/

namespace Sys2Proof.Machine

/-- A register operand (R48): a name of R31, or `[addr]`. -/
inductive RegOperand where
  | name (r : RegName)
  | addr (a : Addr)
deriving DecidableEq, Repr

/-- The statements of R48 and the pseudo-instructions of R49. `A`, `B` and `IMM` are numbers as written, which may not fit their fields. -/
inductive Stmt where
  | wr (reg : RegOperand) (value : Word)
  | rd (reg : RegOperand)
  | nop
  | encrypt
  | mash
  | rekey
  | accClear
  | accSetbit (a : Nat)
  | accInsert (imm b a : Nat)
  | accCarry (imm b a : Nat)
  | cntInc
  | cmd (value : Word)
  /-- `wait`, with the number of reads it makes (R49): the model's inputs are a list, so the count a polling host would reach is written out. -/
  | wait (reads : Nat)
  | ldkey (k0 k1 k2 k3 : Word)
  | ldblk (b0 b1 b2 b3 : Word)
  | clrStatus
deriving DecidableEq, Repr

/-- `addr(REG)` (R31, R48); the reserved locations have no name. -/
def addrOfReg (r : RegName) : Option Addr :=
  match r with
  | .key i => some (BitVec.ofNat 6 i.val)
  | .blk i => some (BitVec.ofNat 6 (0x04 + i.val))
  | .count => some 0x08#6
  | .bits => some 0x09#6
  | .out i => some (BitVec.ofNat 6 (0x0C + i.val))
  | .out32 j => some (BitVec.ofNat 6 (0x10 + j.val))
  | .cmd => some 0x18#6
  | .status => some 0x19#6
  | .ctrl => some 0x1A#6
  | .id => some 0x1B#6
  | .reserved => none

/-- The address of a register operand (R48). -/
def addrOfOperand (o : RegOperand) : Option Addr :=
  match o with
  | .name r => addrOfReg r
  | .addr a => some a

/-- One `REG_WRITE`. -/
def wrTxn (a : Addr) (v : Word) : Txn := { we := true, addr := a, wdata := v }

/-- One `REG_READ`. -/
def rdTxn (a : Addr) : Txn := { we := false, addr := a, wdata := 0#64 }

/-- `(A << 8) | 0x11` (R48). -/
def asmSetbitWord (a : Nat) : Word := BitVec.ofNat 64 ((a <<< 8) ||| 0x11)

/-- `(IMM << 32) | (B << 16) | (A << 8) | op` (R48). -/
def asmShiftWord (op imm b a : Nat) : Word :=
  BitVec.ofNat 64 ((imm <<< 32) ||| (b <<< 16) ||| (a <<< 8) ||| op)

/-- R48: `A`, `B` and `IMM` must fit their fields (8, 8 and 32 bits); the ranges of R44 are not checked. -/
def asmFits (imm b a : Nat) : Bool :=
  decide (a < 2 ^ 8) && decide (b < 2 ^ 8) && decide (imm < 2 ^ 32)

/-- The transactions of a statement (R48, R49); `none` where the assembler rejects it. -/
def assemble (st : Stmt) : Option (List Txn) :=
  match st with
  | .wr reg value => (addrOfOperand reg).map fun a => [wrTxn a value]
  | .rd reg => (addrOfOperand reg).map fun a => [rdTxn a]
  | .nop => some [cmdTxn 0x0000000000000000#64]
  | .encrypt => some [cmdTxn 0x0000000000000001#64]
  | .mash => some [cmdTxn 0x0000000000000002#64]
  | .rekey => some [cmdTxn 0x0000000000000003#64]
  | .accClear => some [cmdTxn 0x0000000000000010#64]
  | .accSetbit a => if asmFits 0 0 a then some [cmdTxn (asmSetbitWord a)] else none
  | .accInsert imm b a =>
    if asmFits imm b a then some [cmdTxn (asmShiftWord 0x12 imm b a)] else none
  | .accCarry imm b a =>
    if asmFits imm b a then some [cmdTxn (asmShiftWord 0x13 imm b a)] else none
  | .cntInc => some [cmdTxn 0x0000000000000014#64]
  | .cmd value => some [cmdTxn value]
  | .wait reads => if reads = 0 then none else some (List.replicate reads (rdTxn 0x19#6))
  | .ldkey k0 k1 k2 k3 =>
    some [wrTxn 0x00#6 k0, wrTxn 0x01#6 k1, wrTxn 0x02#6 k2, wrTxn 0x03#6 k3]
  | .ldblk b0 b1 b2 b3 =>
    some [wrTxn 0x04#6 b0, wrTxn 0x05#6 b1, wrTxn 0x06#6 b2, wrTxn 0x07#6 b3]
  | .clrStatus => some [wrTxn 0x19#6 0x6#64]

/-- The number of reads `wait` makes when it starts `k` cycles after the issue, `k` at least 1 (R49): `max(1, CC_LATENCY - k + 1)`. -/
def waitReads (c : Config.Instance) (k : Nat) : Nat := max 1 (c.ccLatency + 1 - k)

/-- The transactions of a program, one statement after the other. -/
def assembleAll (p : List Stmt) : Option (List Txn) :=
  match p with
  | [] => some []
  | st :: rest =>
    match assemble st, assembleAll rest with
    | some t, some ts => some (t ++ ts)
    | _, _ => none

/-- The host presents the transactions of a program, one a cycle, from the next cycle on, before what it was to present. -/
def State.presentAll (s : State) (ts : List Txn) : State :=
  s.setHost (ts.map (fun t => { rst := false, txn := some t }) ++ s.host)

end Sys2Proof.Machine
end

