-- ==== Sys2Proof/Safety.lean ====
section
/-! DEFINITION. The terms claims use: the legal states (10_state.md R19 to R22, R25), the rejection of a command, and the standard form of the cipher (40_cipher.md R57). -/

namespace Sys2Proof.Machine

/-- The opcodes of the engine commands (R44). -/
def isEngineOp (op : Byte) : Prop :=
  op = CmdOp.encrypt.code ∨ op = CmdOp.mash.code ∨ op = CmdOp.rekey.code

/-- What the spec says of every state a run reaches. -/
structure Legal (s : State) : Prop where
  /-- R25: `REM` is at most `CC_LATENCY`, and at least 1 while a command is in flight (R60). -/
  rem_busy : s.busy = true → 1 ≤ s.rem ∧ s.rem ≤ s.inst.ccLatency
  /-- R60: nothing is left to count when no command is in flight. -/
  rem_idle : s.busy = false → s.rem = 0
  /-- R21: `ERRCODE` is 0 exactly when `ERR` is 0. -/
  errcode_none : s.errcode = .none ↔ s.err = false
  /-- R22: while `BUSY` = 1, `LASTOP` is the opcode of the engine command in flight. -/
  lastop_busy : s.busy = true → s.lastop = s.engOp ∧ isEngineOp s.engOp
  /-- R22: `LASTOP` is the opcode of an accepted command; at reset it is 0 (R29), which is NOP's. -/
  lastop_assigned : ∃ op : CmdOp, s.lastop = op.code
  /-- R25, R63: the block captured for a Mixer command has the words 2 and 3 zero. -/
  mixer_block : s.busy = true → s.engOp ≠ CmdOp.encrypt.code →
    s.engIn.w2 = 0#64 ∧ s.engIn.w3 = 0#64

/-- The inputs of the next `n` cycles hold no reset. -/
def NoReset (s : State) (n : Nat) : Prop := ∀ p ∈ s.host.take n, p.rst = false

/-- The state after `n` cycles. -/
def stepN : Nat → State → Outcome
  | 0, s => .next s
  | n + 1, s =>
    match step s with
    | .next t => stepN n t
    | .fault r => .fault r
    | .refused r => .refused r

/-- The host presents a write of `v` to the address `a` in this cycle. -/
def Writes (s : State) (a : Addr) (v : Word) : Prop :=
  s.input.rst = false ∧ s.input.txn = some { we := true, addr := a, wdata := v }

/-- An engine command completes in this cycle (R60). -/
def Completing (s : State) : Prop := s.busy = true ∧ s.rem = 1

/-- The state without what only the host sees: `DONE`, `ERR`, `ERRCODE`, the enables of `irq`, and the value the port returned. -/
def State.withoutFlags (s : State) : State :=
  { s with
    done := false
    err := false
    errcode := .none
    doneIe := false
    errIe := false
    rdata := none }

/-- The mask of each row of R44's table. -/
def rowMask : CmdOp → Word
  | .nop => 0xFFFFFFFFFFFFFFFF#64
  | .encrypt => 0xFFFFFFFFFFFFFFFF#64
  | .mash => 0xFFFFFFFFFFFFFFFF#64
  | .rekey => 0xFFFFFFFFFFFFFFFF#64
  | .accClear => 0xFFFFFFFFFFFFFFFF#64
  | .accSetbit => 0xFFFFFFFFFFFF00FF#64
  | .accInsert => 0x00000000FF0000FF#64
  | .accCarry => 0x00000000FF0000FF#64
  | .cntInc => 0xFFFFFFFFFFFFFFFF#64

/-- The match value of each row of R44's table. -/
def rowMatch : CmdOp → Word
  | .nop => 0x0000000000000000#64
  | .encrypt => 0x0000000000000001#64
  | .mash => 0x0000000000000002#64
  | .rekey => 0x0000000000000003#64
  | .accClear => 0x0000000000000010#64
  | .accSetbit => 0x0000000000000011#64
  | .accInsert => 0x0000000000000012#64
  | .accCarry => 0x0000000000000013#64
  | .cntInc => 0x0000000000000014#64

/-- The legal ranges of each row of R44's table. -/
def rowRange (op : CmdOp) (b a : Byte) : Prop :=
  (op = .accSetbit → a.toNat ≤ 63) ∧
    (op = .accInsert ∨ op = .accCarry → a.toNat ≤ 64 ∧ b.toNat ≤ 32)

namespace Standard

/-- The permutation `π = (0, 3, 2, 1)` of R57. -/
def permute (w : Quad) : Quad := ⟨w.w0, w.w3, w.w2, w.w1⟩

/-- A round of the standard form (R57): it mixes the pairs (0, 1) and (2, 3), then permutes. -/
def round (d : Nat) (w : Quad) : Quad :=
  let p := CipherCore.mix w.w0 w.w1 (CipherCore.rot d 0)
  let q := CipherCore.mix w.w2 w.w3 (CipherCore.rot d 1)
  permute ⟨p.1, p.2, q.1, q.2⟩

/-- The subkey additions of the standard form, the tweak zero (R52, R57). -/
def roundInject (k w : Quad) (d : Nat) : Quad :=
  if d % 4 = 3 then
    CipherCore.addQuad (round d w) (CipherCore.subkey k ((d + 1) / 4))
  else round d w

/-- Threefish-256 encryption in the standard form (R57). -/
def encrypt (k p : Quad) : Quad :=
  (List.range 72).foldl (roundInject k) (CipherCore.addQuad p (CipherCore.subkey k 0))

end Standard

end Sys2Proof.Machine
end

