-- ==== Sys2Proof/Certificates/Slice0/Obligations.lean ====
section
/-! DEFINITION. The statements about TF256-CC that are to be proved. Each docstring names what of spec/ it formalises; no statement here rests on an entry of the assumption log unless its docstring says so. -/

open Sys2Proof Sys2Proof.Machine

/-! CipherCore (40_cipher.md). -/

/-- R53: MIX adds mod 2^64, rotates left (bit `j` of the rotated word is bit `j - r`, around the word) and xors with the new sum; its corner cases; and the range of the rotations. -/
def Obligations.MixAddsRotatesXors : Prop :=
  (∀ (a b : Word) (r : Nat), 1 ≤ r → r ≤ 63 →
    (CipherCore.mix a b r).1.toNat = (a.toNat + b.toNat) % 2 ^ 64 ∧
    ∀ j, j < 64 →
      (CipherCore.mix a b r).2.getLsbD j =
        (b.getLsbD ((j + 64 - r) % 64) ^^ (CipherCore.mix a b r).1.getLsbD j)) ∧
  CipherCore.mix 0xFFFFFFFFFFFFFFFF#64 1#64 14 = (0#64, 0x4000#64) ∧
  (∀ a b : Word,
    lowHalf ((CipherCore.mix a b 32).2 ^^^ (CipherCore.mix a b 32).1) = highHalf b ∧
    highHalf ((CipherCore.mix a b 32).2 ^^^ (CipherCore.mix a b 32).1) = lowHalf b) ∧
  (∀ d j : Nat, j < 2 → 5 ≤ CipherCore.rot d j ∧ CipherCore.rot d j ≤ 58)

/-- R51: the four key words and their parity word; its corner cases. -/
def Obligations.KeyScheduleAddsParityWord : Prop :=
  (∀ k : Quad,
    CipherCore.keyWord k 0 = k.w0 ∧ CipherCore.keyWord k 1 = k.w1 ∧
    CipherCore.keyWord k 2 = k.w2 ∧ CipherCore.keyWord k 3 = k.w3 ∧
    CipherCore.keyWord k 4 = k.w0 ^^^ k.w1 ^^^ k.w2 ^^^ k.w3 ^^^ 0x1BD11BDAA9FC1A22#64) ∧
  CipherCore.keyWord ⟨0#64, 0#64, 0#64, 0#64⟩ 4 = 0x1BD11BDAA9FC1A22#64 ∧
  (∀ k : Quad, k.w0 ^^^ k.w1 ^^^ k.w2 ^^^ k.w3 = 0x1BD11BDAA9FC1A22#64 →
    CipherCore.keyWord k 4 = 0#64)

/-- R52: the four words of subkey `s`, the number added to word 3 only; subkey 0 is the key. -/
def Obligations.SubkeyRotatesSchedule : Prop :=
  (∀ (k : Quad) (s : Nat), s ≤ 18 →
    (CipherCore.subkey k s).w0 = CipherCore.keyWord k (s % 5) ∧
    (CipherCore.subkey k s).w1 = CipherCore.keyWord k ((s + 1) % 5) ∧
    (CipherCore.subkey k s).w2 = CipherCore.keyWord k ((s + 2) % 5) ∧
    (CipherCore.subkey k s).w3.toNat =
      ((CipherCore.keyWord k ((s + 3) % 5)).toNat + s) % 2 ^ 64) ∧
  (∀ k : Quad, CipherCore.subkey k 0 = k)

/-- 40_cipher.md section 3: an even round mixes (0, 1) and (2, 3), an odd one (0, 3) and (2, 1); the two MIX operations may be done in either order, which the spec marks as derived ("They may be computed in parallel or in either order with the same result"). -/
def Obligations.RoundMixesAlternatingPairs : Prop :=
  ∀ (d : Nat) (w : Quad), d < 72 →
    (d % 2 = 0 →
      CipherCore.round d w =
        (let p := CipherCore.mix w.w0 w.w1 (CipherCore.rot d 0)
         let u : Quad := { w with w0 := p.1, w1 := p.2 }
         let q := CipherCore.mix u.w2 u.w3 (CipherCore.rot d 1)
         { u with w2 := q.1, w3 := q.2 }) ∧
      CipherCore.round d w =
        (let q := CipherCore.mix w.w2 w.w3 (CipherCore.rot d 1)
         let u : Quad := { w with w2 := q.1, w3 := q.2 }
         let p := CipherCore.mix u.w0 u.w1 (CipherCore.rot d 0)
         { u with w0 := p.1, w1 := p.2 })) ∧
    (d % 2 = 1 →
      CipherCore.round d w =
        (let p := CipherCore.mix w.w0 w.w3 (CipherCore.rot d 0)
         let u : Quad := { w with w0 := p.1, w3 := p.2 }
         let q := CipherCore.mix u.w2 u.w1 (CipherCore.rot d 1)
         { u with w2 := q.1, w1 := q.2 }) ∧
      CipherCore.round d w =
        (let q := CipherCore.mix w.w2 w.w1 (CipherCore.rot d 1)
         let u : Quad := { w with w2 := q.1, w1 := q.2 }
         let p := CipherCore.mix u.w0 u.w3 (CipherCore.rot d 0)
         { u with w0 := p.1, w3 := p.2 }))

/-- R55: `E(K, P)` is the last of the 73 working words that start at `P` plus subkey 0 and pass through the 72 rounds, with subkey `(d + 1) / 4` added after each round `d` with `d mod 4 = 3`. -/
def Obligations.EncryptRunsSeventyTwoRounds : Prop :=
  ∀ (k p : Quad) (w : Nat → Quad),
    w 0 = CipherCore.addQuad p (CipherCore.subkey k 0) →
    (∀ d, d < 72 →
      w (d + 1) =
        if d % 4 = 3 then
          CipherCore.addQuad (CipherCore.round d (w d)) (CipherCore.subkey k ((d + 1) / 4))
        else CipherCore.round d (w d)) →
    CipherCore.encrypt k p = w 72

/-- 40_cipher.md section 4 (marked there as general knowledge checked by computation): the standard form of Threefish-256, which permutes the words after each round, computes the same words. -/
def Obligations.StandardFormComputesSameWords : Prop :=
  ∀ k p : Quad, CipherCore.encrypt k p = Standard.encrypt k p

/-! Host transactions (20_memory.md, 10_state.md). -/

/-- 20_memory.md sections 1 and 2: REG_READ answers at every address, returns what the address map says, and changes nothing but the value the port returned. -/
def Obligations.RegReadReturnsMapValue : Prop :=
  ∀ (s : State) (a : Addr), ∃ v : Word,
    exec (.regRead a) s = .next { s with rdata := some v } ∧
    (∀ i : Fin 4, a.toNat = i.val → v = quadGet s.key i) ∧
    (∀ i : Fin 4, a.toNat = 0x04 + i.val → v = quadGet s.blk i) ∧
    (a.toNat = 0x08 → v = s.count) ∧
    (a.toNat = 0x09 → v = s.bits) ∧
    (0x0A ≤ a.toNat → a.toNat ≤ 0x0B → v = 0#64) ∧
    (∀ i : Fin 4, a.toNat = 0x0C + i.val → v = quadGet s.out i) ∧
    (∀ j : Fin 8, a.toNat = 0x10 + j.val → v = out32 s.out j) ∧
    (a.toNat = 0x18 → v = 0#64) ∧
    (a.toNat = 0x19 → v = statusWord s) ∧
    (a.toNat = 0x1A → v = ctrlWord s) ∧
    (a.toNat = 0x1B → v = 0x5446323536434307#64) ∧
    (0x1C ≤ a.toNat → v = 0#64)

/-- R17: a read of `OUT32_j` returns a half of word `j >> 1` of `OUT`, the high half for even `j`, with the bits 63:32 zero; a write to it is ignored. -/
def Obligations.Out32ReadsHalvesHighFirst : Prop :=
  ∀ (s : State) (j : Fin 8),
    (∃ v : Word,
      exec (.regRead (BitVec.ofNat 6 (0x10 + j.val))) s = .next { s with rdata := some v } ∧
      v.toNat < 2 ^ 32 ∧
      v.toNat =
        if j.val % 2 = 0 then (quadGet s.out (Fin.ofNat 4 (j.val / 2))).toNat / 2 ^ 32
        else (quadGet s.out (Fin.ofNat 4 (j.val / 2))).toNat % 2 ^ 32) ∧
    (∀ v : Word, exec (.regWrite (BitVec.ofNat 6 (0x10 + j.val)) v) s = .next s)

/-- 10_state.md section 4: the read value of `STATUS` is LASTOP, ERRCODE, ERR, DONE and BUSY at their places, and every other bit is 0; the codes are those of 60_exceptions.md section 1. -/
def Obligations.StatusReadsItsFields : Prop :=
  ∀ s : State, ∃ v : Word,
    exec (.regRead 0x19#6) s = .next { s with rdata := some v } ∧
    v.toNat =
      s.lastop.toNat * 2 ^ 8 +
      (match s.errcode with
        | .none => 0
        | .illegalOp => 1
        | .reservedField => 2
        | .invalidArg => 3
        | .busy => 4) * 2 ^ 4 +
      s.err.toNat * 2 ^ 2 + s.done.toNat * 2 + s.busy.toNat

/-- 20_memory.md section 2: REG_WRITE to `KEY`, `BLK`, `COUNT` or `BITS` answers in every state, stores the word there and changes nothing else. -/
def Obligations.RegWriteStoresDataWord : Prop :=
  ∀ (s : State) (v : Word),
    (∀ i : Fin 4, ∃ q : Quad,
      exec (.regWrite (BitVec.ofNat 6 i.val) v) s = .next { s with key := q } ∧
      quadGet q i = v ∧ ∀ j : Fin 4, j ≠ i → quadGet q j = quadGet s.key j) ∧
    (∀ i : Fin 4, ∃ q : Quad,
      exec (.regWrite (BitVec.ofNat 6 (0x04 + i.val)) v) s = .next { s with blk := q } ∧
      quadGet q i = v ∧ ∀ j : Fin 4, j ≠ i → quadGet q j = quadGet s.blk j) ∧
    exec (.regWrite 0x08#6 v) s = .next { s with count := v } ∧
    exec (.regWrite 0x09#6 v) s = .next { s with bits := v }

/-- 20_memory.md section 2: a write to a reserved or read-only address (the reserved ones, `OUT`, `OUT32`, `ID`) does nothing and sets no error. -/
def Obligations.RegWriteToReadOnlyIsIgnored : Prop :=
  ∀ (s : State) (a : Addr) (v : Word),
    (0x0A ≤ a.toNat ∧ a.toNat ≤ 0x17) ∨ 0x1B ≤ a.toNat →
    exec (.regWrite a v) s = .next s

/-- 10_state.md section 4: REG_WRITE to `STATUS` clears DONE where bit 1 of the data is 1, and ERR and ERRCODE where bit 2 is 1; it changes nothing else, whatever the other bits. -/
def Obligations.StatusWriteClearsOnes : Prop :=
  ∀ (s : State) (v : Word),
    exec (.regWrite 0x19#6 v) s =
      .next { s with
        done := if v.getLsbD 1 then false else s.done
        err := if v.getLsbD 2 then false else s.err
        errcode := if v.getLsbD 2 then .none else s.errcode }

/-- 10_state.md section 4: `CTRL` holds two bits; a write takes bits 0 and 1 of the data and ignores the rest, a read returns them. -/
def Obligations.CtrlHoldsTwoEnables : Prop :=
  ∀ (s : State) (v : Word),
    exec (.regWrite 0x1A#6 v) s =
      .next { s with doneIe := v.getLsbD 0, errIe := v.getLsbD 1 } ∧
    ∃ u : Word, exec (.regRead 0x1A#6) s = .next { s with rdata := some u } ∧
      u.toNat = s.errIe.toNat * 2 + s.doneIe.toNat

/-- 20_memory.md section 3: every write but one to `CMD` is idempotent. -/
def Obligations.RegisterWritesAreIdempotent : Prop :=
  ∀ (s : State) (a : Addr) (v : Word), a ≠ 0x18#6 →
    ∃ t, exec (.regWrite a v) s = .next t ∧ exec (.regWrite a v) t = .next t

/-- 20_memory.md sections 1 and 2, the frame of REG_WRITE over the register space: a write to an address other than `CMD` and `STATUS` leaves what every other address reads as, and a write to `STATUS` leaves what every other address reads as too; the hidden engine state is unchanged. The clauses about the instance, the host's inputs and the returned value speak of the model's own fields (logs 1, 2 and 3). -/
def Obligations.RegWriteFrame : Prop :=
  ∀ (s : State) (a : Addr) (v : Word), a ≠ 0x18#6 →
    ∃ t, exec (.regWrite a v) s = .next t ∧
      (∀ b : Addr, b ≠ a → readReg t b = readReg s b) ∧
      t.engOp = s.engOp ∧ t.engKey = s.engKey ∧ t.engIn = s.engIn ∧ t.rem = s.rem ∧
      t.inst = s.inst ∧ t.host = s.host ∧ t.rdata = s.rdata

/-! Commands: decoding and rejection (30_encoding.md, 60_exceptions.md). -/

/-- R77: a rejection records its code if ERR was 0 and else changes nothing; an error already recorded blocks no command: a legal command written while BUSY = 0 is accepted whatever ERR is. -/
def Obligations.RejectionRecordsFirstCode : Prop :=
  (∀ (s : State) (c : ErrCode), s.err = false →
    s.cmdError c = { s with err := true, errcode := c }) ∧
  (∀ (s : State) (c : ErrCode), s.err = true → s.cmdError c = s) ∧
  (∀ (s : State) (v : Word) (i : Instr), s.busy = false → decodeCmd v = .ok i →
    ∃ t, exec (.regWrite 0x18#6 v) s = .next t ∧
      t.lastop = v.extractLsb' 0 8 ∧ t.err = s.err ∧ t.errcode = s.errcode)

/-- R76: a write to `CMD` takes the first check that applies, in the fixed order, and else executes the command; the example of the rule. -/
def Obligations.CommandTakesFirstCheck : Prop :=
  (∀ (s : State) (v : Word) (op a b rsv : Byte) (imm : Half),
    op = v.extractLsb' 0 8 → a = v.extractLsb' 8 8 → b = v.extractLsb' 16 8 →
    rsv = v.extractLsb' 24 8 → imm = v.extractLsb' 32 32 →
    exec (.regWrite 0x18#6 v) s =
      if s.busy = true then .next (s.cmdError .busy)
      else if op ∉ [0x00#8, 0x01#8, 0x02#8, 0x03#8, 0x10#8, 0x11#8, 0x12#8, 0x13#8, 0x14#8] then
        .next (s.cmdError .illegalOp)
      else if rsv ≠ 0#8 then .next (s.cmdError .reservedField)
      else if op ∉ [0x11#8, 0x12#8, 0x13#8] ∧ a ≠ 0#8 then .next (s.cmdError .reservedField)
      else if op ∉ [0x12#8, 0x13#8] ∧ (b ≠ 0#8 ∨ imm ≠ 0#32) then
        .next (s.cmdError .reservedField)
      else if op = 0x11#8 ∧ 63 < a.toNat then .next (s.cmdError .invalidArg)
      else if op ∈ [0x12#8, 0x13#8] ∧ (64 < a.toNat ∨ 32 < b.toNat) then
        .next (s.cmdError .invalidArg)
      else if op = 0x00#8 then exec .nop s
      else if op = 0x01#8 then exec .encrypt s
      else if op = 0x02#8 then exec .mash s
      else if op = 0x03#8 then exec .rekey s
      else if op = 0x10#8 then exec .accClear s
      else if op = 0x11#8 then exec (.accSetbit a) s
      else if op = 0x12#8 then exec (.accInsert imm b a) s
      else if op = 0x13#8 then exec (.accCarry imm b a) s
      else exec .cntInc s) ∧
  (∀ s : State, s.busy = false →
    exec (.regWrite 0x18#6 0x0000000100004011#64) s = .next (s.cmdError .reservedField))

/-- R45: where BUSY = 0, a command with a non-zero reserved field, `RSV` or one of `A`, `B` and `IMM` that its opcode does not use, is rejected with RESERVED_FIELD. -/
def Obligations.ReservedFieldsAreRejected : Prop :=
  ∀ (s : State) (v : Word) (op : CmdOp), s.busy = false → v.extractLsb' 0 8 = op.code →
    (v.extractLsb' 24 8 ≠ 0#8 ∨
      (op ∉ [CmdOp.accSetbit, .accInsert, .accCarry] ∧ v.extractLsb' 8 8 ≠ 0#8) ∨
      (op ∉ [CmdOp.accInsert, .accCarry] ∧
        (v.extractLsb' 16 8 ≠ 0#8 ∨ v.extractLsb' 32 32 ≠ 0#32))) →
    exec (.regWrite 0x18#6 v) s = .next (s.cmdError .reservedField)

/-- R46: where BUSY = 0, the unassigned opcodes are rejected with ILLEGAL_OP and no other effect; every one of the 2^64 words has an outcome in every state. -/
def Obligations.UnassignedOpcodesAreRejected : Prop :=
  (∀ (s : State) (v : Word), s.busy = false →
    (0x04 ≤ (v.extractLsb' 0 8).toNat ∧ (v.extractLsb' 0 8).toNat ≤ 0x0F) ∨
      0x15 ≤ (v.extractLsb' 0 8).toNat →
    exec (.regWrite 0x18#6 v) s = .next (s.cmdError .illegalOp)) ∧
  (∀ (s : State) (v : Word), ∃ t, exec (.regWrite 0x18#6 v) s = .next t)

/-- R78: a write to `CMD` either is a rejection, which changes nothing but ERR and ERRCODE, or is accepted: BUSY was 0, the word stands for a command, the command has all its effects, and no error is recorded. -/
def Obligations.RejectionsArePrecise : Prop :=
  ∀ (s : State) (v : Word), ∃ t, exec (.regWrite 0x18#6 v) s = .next t ∧
    ((∃ c : ErrCode, c ≠ .none ∧
        t = { s with err := true, errcode := if s.err then s.errcode else c }) ∨
      (s.busy = false ∧ t.lastop = v.extractLsb' 0 8 ∧ t.err = s.err ∧ t.errcode = s.errcode ∧
        ∃ i : Instr, decodeCmd v = .ok i ∧ exec i s = .next t))

/-- 60_exceptions.md section 2 and 42_accumulator.md: while BUSY = 1 each of the nine commands is rejected with BUSY. -/
def Obligations.CommandsAreRejectedWhileBusy : Prop :=
  ∀ (s : State) (i : Instr), s.busy = true →
    (∀ a : Addr, i ≠ .regRead a) → (∀ (a : Addr) (v : Word), i ≠ .regWrite a v) →
    exec i s = .next (s.cmdError .busy)

/-! The immediate commands (42_accumulator.md). -/

/-- R67: NOP. -/
def Obligations.NopWritesOnlyLastop : Prop :=
  decodeCmd 0x0000000000000000#64 = .ok .nop ∧
  (∀ s : State, s.busy = false → exec .nop s = .next { s with lastop := 0x00#8 }) ∧
  (∀ s : State, s.busy = true → ∃ t, exec .nop s = .next t ∧ t = s.cmdError .busy ∧ t.err = true) ∧
  (∀ (s : State) (v : Word), s.busy = false → v.extractLsb' 0 8 = 0x00#8 → v >>> 8 ≠ 0#64 →
    exec (.regWrite 0x18#6 v) s = .next (s.cmdError .reservedField)) ∧
  (∀ s : State, s.busy = false → s.done = true → s.err = false → s.errcode = .none →
    ∃ t, exec .nop s = .next t ∧ statusWord t = 0x0000000000000002#64)

/-- R68: ACC_CLEAR. -/
def Obligations.AccClearZeroesMixerInputs : Prop :=
  decodeCmd 0x0000000000000010#64 = .ok .accClear ∧
  (∀ s : State, s.busy = false →
    exec .accClear s = .next { s with count := 0#64, bits := 0#64, lastop := 0x10#8 }) ∧
  (∀ s : State, s.busy = true → exec .accClear s = .next (s.cmdError .busy)) ∧
  (∀ (s : State) (v : Word), s.busy = false → v.extractLsb' 0 8 = 0x10#8 → v >>> 8 ≠ 0#64 →
    exec (.regWrite 0x18#6 v) s = .next (s.cmdError .reservedField)) ∧
  (∀ s t : State, s.busy = false → exec .accClear s = .next t → exec .accClear t = .next t)

/-- R69: ACC_SETBIT sets the one bit `A` of `BITS`. -/
def Obligations.AccSetbitSetsOneBit : Prop :=
  (∀ a : Byte, a.toNat ≤ 63 →
    decodeCmd (BitVec.ofNat 64 ((a.toNat <<< 8) ||| 0x11)) = .ok (.accSetbit a)) ∧
  (∀ (s : State) (a : Byte), s.busy = false → a.toNat ≤ 63 →
    ∃ u : Word, exec (.accSetbit a) s = .next { s with bits := u, lastop := 0x11#8 } ∧
      ∀ j, j < 64 → u.getLsbD j = (decide (j = a.toNat) || s.bits.getLsbD j)) ∧
  (∀ (s : State) (a : Byte), s.busy = false → 63 < a.toNat →
    exec (.accSetbit a) s = .next (s.cmdError .invalidArg)) ∧
  (∀ (s : State) (a : Byte), s.busy = true →
    exec (.accSetbit a) s = .next (s.cmdError .busy)) ∧
  (∀ (s : State) (v : Word), s.busy = false → v.extractLsb' 0 8 = 0x11#8 → v >>> 16 ≠ 0#64 →
    exec (.regWrite 0x18#6 v) s = .next (s.cmdError .reservedField)) ∧
  (∀ (s t : State) (a : Byte), s.busy = false → a.toNat ≤ 63 → s.bits.getLsbD a.toNat = true →
    exec (.accSetbit a) s = .next t → t.bits = s.bits)

/-- R70: ACC_INSERT ors the low `B` bits of `IMM` into `BITS` at bit `A`, dropping what lies above bit 63. -/
def Obligations.AccInsertOrsPathBits : Prop :=
  (∀ (imm : Half) (b a : Byte), a.toNat ≤ 64 → b.toNat ≤ 32 →
    decodeCmd (BitVec.ofNat 64
      ((imm.toNat <<< 32) ||| (b.toNat <<< 16) ||| (a.toNat <<< 8) ||| 0x12)) =
      .ok (.accInsert imm b a)) ∧
  (∀ (s : State) (imm : Half) (b a : Byte), s.busy = false → a.toNat ≤ 64 → b.toNat ≤ 32 →
    ∃ u : Word, exec (.accInsert imm b a) s = .next { s with bits := u, lastop := 0x12#8 } ∧
      u.toNat = s.bits.toNat ||| (((imm.toNat % 2 ^ b.toNat) * 2 ^ a.toNat) % 2 ^ 64) ∧
      ∀ j, j < 64 →
        u.getLsbD j =
          (s.bits.getLsbD j ||
            (decide (a.toNat ≤ j) && decide (j - a.toNat < b.toNat) &&
              imm.getLsbD (j - a.toNat)))) ∧
  (∀ (s : State) (imm : Half) (b a : Byte), s.busy = false → 64 < a.toNat ∨ 32 < b.toNat →
    exec (.accInsert imm b a) s = .next (s.cmdError .invalidArg)) ∧
  (∀ (s : State) (imm : Half) (b a : Byte), s.busy = true →
    exec (.accInsert imm b a) s = .next (s.cmdError .busy)) ∧
  (∀ (s : State) (v : Word), s.busy = false → v.extractLsb' 0 8 = 0x12#8 →
    v.extractLsb' 24 8 ≠ 0#8 →
    exec (.regWrite 0x18#6 v) s = .next (s.cmdError .reservedField))

/-- R71: ACC_CARRY replaces `BITS` by the low `B` bits of `IMM` shifted right by `A`. -/
def Obligations.AccCarryLoadsShiftedBits : Prop :=
  (∀ (imm : Half) (b a : Byte), a.toNat ≤ 64 → b.toNat ≤ 32 →
    decodeCmd (BitVec.ofNat 64
      ((imm.toNat <<< 32) ||| (b.toNat <<< 16) ||| (a.toNat <<< 8) ||| 0x13)) =
      .ok (.accCarry imm b a)) ∧
  (∀ (s : State) (imm : Half) (b a : Byte), s.busy = false → a.toNat ≤ 64 → b.toNat ≤ 32 →
    ∃ u : Word, exec (.accCarry imm b a) s = .next { s with bits := u, lastop := 0x13#8 } ∧
      u.toNat = imm.toNat % 2 ^ b.toNat / 2 ^ a.toNat ∧
      (b.toNat ≤ a.toNat → u = 0#64) ∧ (32 ≤ a.toNat → u = 0#64)) ∧
  (∀ (s : State) (imm : Half) (b a : Byte), s.busy = false → 64 < a.toNat ∨ 32 < b.toNat →
    exec (.accCarry imm b a) s = .next (s.cmdError .invalidArg)) ∧
  (∀ (s : State) (imm : Half) (b a : Byte), s.busy = true →
    exec (.accCarry imm b a) s = .next (s.cmdError .busy)) ∧
  (∀ (s : State) (v : Word), s.busy = false → v.extractLsb' 0 8 = 0x13#8 →
    v.extractLsb' 24 8 ≠ 0#8 →
    exec (.regWrite 0x18#6 v) s = .next (s.cmdError .reservedField))

/-- R72: CNT_INC adds 1 to `COUNT` and wraps. -/
def Obligations.CntIncAddsOneAndWraps : Prop :=
  decodeCmd 0x0000000000000014#64 = .ok .cntInc ∧
  (∀ s : State, s.busy = false →
    ∃ u : Word, exec .cntInc s = .next { s with count := u, lastop := 0x14#8 } ∧
      u.toNat = (s.count.toNat + 1) % 2 ^ 64) ∧
  (∀ s t : State, s.busy = false → s.count = 0xFFFFFFFFFFFFFFFF#64 → exec .cntInc s = .next t →
    t.count = 0#64) ∧
  (∀ s : State, s.busy = true → exec .cntInc s = .next (s.cmdError .busy)) ∧
  (∀ (s : State) (v : Word), s.busy = false → v.extractLsb' 0 8 = 0x14#8 → v >>> 8 ≠ 0#64 →
    exec (.regWrite 0x18#6 v) s = .next (s.cmdError .reservedField))

/-- 42_accumulator.md, the frame of the immediate commands: accepted, they leave what every address but `COUNT`, `BITS` and `STATUS` reads as, the engine and every flag but LASTOP; ACC_SETBIT, ACC_INSERT, ACC_CARRY and NOP leave `COUNT`, CNT_INC and NOP leave `BITS`. The clauses about the instance, the host's inputs and the returned value speak of the model's own fields (logs 1, 2 and 3). -/
def Obligations.ImmediateCommandFrame : Prop :=
  ∀ (s : State) (i : Instr), s.busy = false → WellFormed i →
    i = .nop ∨ i = .accClear ∨ (∃ a, i = .accSetbit a) ∨ (∃ imm b a, i = .accInsert imm b a) ∨
      (∃ imm b a, i = .accCarry imm b a) ∨ i = .cntInc →
    ∃ t, exec i s = .next t ∧
      (∀ a : Addr, a ≠ 0x08#6 → a ≠ 0x09#6 → a ≠ 0x19#6 → readReg t a = readReg s a) ∧
      (i ≠ .accClear → i ≠ .cntInc → t.count = s.count) ∧
      (i = .nop ∨ i = .cntInc → t.bits = s.bits) ∧
      t.busy = s.busy ∧ t.done = s.done ∧ t.err = s.err ∧ t.errcode = s.errcode ∧
      t.engOp = s.engOp ∧ t.engKey = s.engKey ∧ t.engIn = s.engIn ∧ t.rem = s.rem ∧
      t.inst = s.inst ∧ t.host = s.host ∧ t.rdata = s.rdata

/-! The engine (40_cipher.md section 5, 41_mixer.md). -/

/-- R59: what the issue of each engine command writes; a transaction in a later cycle, while the command is in flight, does not change what was captured. -/
def Obligations.EngineIssueCapturesInputs : Prop :=
  (∀ s : State, s.busy = false →
    exec .encrypt s =
      .next { s with
        engOp := 0x01#8
        engKey := s.key
        engIn := s.blk
        rem := s.inst.ccLatency
        busy := true
        lastop := 0x01#8 }) ∧
  (∀ s : State, s.busy = false →
    exec .mash s =
      .next { s with
        engOp := 0x02#8
        engKey := s.key
        engIn := ⟨s.bits, s.count, 0#64, 0#64⟩
        rem := s.inst.ccLatency
        busy := true
        lastop := 0x02#8 }) ∧
  (∀ s : State, s.busy = false →
    exec .rekey s =
      .next { s with
        engOp := 0x03#8
        engKey := s.key
        engIn := ⟨s.bits, s.count, 0#64, 0#64⟩
        rem := s.inst.ccLatency
        busy := true
        lastop := 0x03#8 }) ∧
  (∀ (s : State) (i : Instr), s.busy = true →
    ∃ t, exec i s = .next t ∧ t.busy = true ∧
      t.engOp = s.engOp ∧ t.engKey = s.engKey ∧ t.engIn = s.engIn ∧ t.rem = s.rem)

/-- 40_cipher.md section 5, the frame of the engine commands: accepted, they leave what every address but `STATUS` reads as, and DONE, ERR and ERRCODE. The clauses about the instance, the host's inputs and the returned value speak of the model's own fields (logs 1, 2 and 3). -/
def Obligations.EngineIssueFrame : Prop :=
  ∀ (s : State) (i : Instr), s.busy = false → i = .encrypt ∨ i = .mash ∨ i = .rekey →
    ∃ t, exec i s = .next t ∧
      (∀ a : Addr, a ≠ 0x19#6 → readReg t a = readReg s a) ∧
      t.done = s.done ∧ t.err = s.err ∧ t.errcode = s.errcode ∧
      t.inst = s.inst ∧ t.host = s.host ∧ t.rdata = s.rdata

/-- 40_cipher.md section 5: phase (a) of a cycle. In its last cycle a command writes its result to `OUT`, REKEY also to `KEY`, and clears BUSY and sets DONE; before that it only counts; without a command it does nothing. -/
def Obligations.EnginePhaseCompletesAtLastCycle : Prop :=
  ∀ s : State,
    (s.busy = false → s.enginePhase = s) ∧
    (s.busy = true → 2 ≤ s.rem → s.enginePhase = { s with rem := s.rem - 1 }) ∧
    (s.busy = true → s.rem = 1 →
      s.enginePhase =
        { s with
          rem := 0
          out := CipherCore.encrypt s.engKey s.engIn
          key := if s.engOp = 0x03#8 then CipherCore.encrypt s.engKey s.engIn else s.key
          busy := false
          done := true })

/-- 40_cipher.md section 5 and 70_reset_and_hazards.md section 3: a command in flight completes after exactly the cycles it has left, whatever the host presents meanwhile except a reset: until then BUSY stays 1, `OUT` keeps the previous result and the captured inputs stay; then `OUT` holds `E` of the captured inputs. The host's inputs are the model's list (log 2, the model's choice). -/
def Obligations.EngineRunsToCompletion : Prop :=
  ∀ s : State, s.busy = true → 1 ≤ s.rem → NoReset s s.rem →
    (∀ n, n < s.rem → ∃ u, stepN n s = .next u ∧ u.busy = true ∧ u.rem = s.rem - n ∧
      u.out = s.out ∧ u.lastop = s.lastop ∧ u.engOp = s.engOp ∧ u.engKey = s.engKey ∧
      u.engIn = s.engIn) ∧
    ∃ t, stepN s.rem s = .next t ∧ t.out = CipherCore.encrypt s.engKey s.engIn

/-- 41_mixer.md: MASH computes what ENCRYPT computes when `BLK` is `[BITS, COUNT, 0, 0]`: the engine captures the same key and block, and completes with the same `OUT`. -/
def Obligations.MashIsEncryptOfMixerBlock : Prop :=
  ∀ s : State, s.busy = false →
    ∃ t u, exec .mash s = .next t ∧
      exec .encrypt { s with blk := ⟨s.bits, s.count, 0#64, 0#64⟩ } = .next u ∧
      t.engKey = u.engKey ∧ t.engIn = u.engIn ∧ t.rem = u.rem ∧
      ({ t with rem := 1 } : State).enginePhase.out = ({ u with rem := 1 } : State).enginePhase.out ∧
      ({ t with rem := 1 } : State).enginePhase.out =
        CipherCore.encrypt s.key ⟨s.bits, s.count, 0#64, 0#64⟩ ∧
      ({ t with rem := 1 } : State).enginePhase.key = s.key

/-- 41_mixer.md: REKEY, completing with no transaction between, leaves its result in `OUT` and in `KEY`, word for word, computed under the old key; `COUNT` and `BITS` stay. -/
def Obligations.RekeyReplacesKeyWithResult : Prop :=
  ∀ s : State, s.busy = false →
    ∃ t, exec .rekey s = .next t ∧
      ({ t with rem := 1 } : State).enginePhase.out =
        CipherCore.encrypt s.key ⟨s.bits, s.count, 0#64, 0#64⟩ ∧
      ({ t with rem := 1 } : State).enginePhase.key =
        CipherCore.encrypt s.key ⟨s.bits, s.count, 0#64, 0#64⟩ ∧
      ({ t with rem := 1 } : State).enginePhase.count = s.count ∧
      ({ t with rem := 1 } : State).enginePhase.bits = s.bits

/-! The cycle (20_memory.md section 2, 60_exceptions.md section 4, 70_reset_and_hazards.md). -/

/-- 20_memory.md section 2: in a cycle without reset that carries a transaction, a step is that transaction's instruction on the state phase (a) left; without one it is phase (a) alone. What the host presents moves on by one cycle and the port's returned value is cleared first, which is the model's choice (logs 2 and 3). -/
def Obligations.StepRunsPresentedTransaction : Prop :=
  ∀ s : State, s.input.rst = false →
    (∀ x : Txn, s.input.txn = some x →
      step s = exec (if x.we then .regWrite x.addr x.wdata else .regRead x.addr)
        ({ s with host := s.host.tail, rdata := none } : State).enginePhase) ∧
    (s.input.txn = none →
      step s = .next ({ s with host := s.host.tail, rdata := none } : State).enginePhase)

/-- 30_encoding.md sections 1 and 3: where the host presents a write to `CMD` of a word that decodes to a command, a step is that command's meaning on the state phase (a) left. That the host's inputs move on and the returned value is cleared first is the model's choice (logs 2 and 3). -/
def Obligations.StepRunsDecodedCommand : Prop :=
  ∀ (s : State) (v : Word) (i : Instr), Writes s 0x18#6 v → decodeCmd v = .ok i →
    step s = exec i ({ s with host := s.host.tail, rdata := none } : State).enginePhase

/-- Log 10, the model's own reading of the table's bits: where they decode to an instruction, the state that presents them runs exactly it in the next cycle. So are the host's inputs, which it changes, and the cleared returned value (logs 2 and 3). -/
def Obligations.FetchedTableWordRuns : Prop :=
  ∀ (s : State) (nbits w : Nat) (i : Instr), decodeTableWord nbits w = some i →
    step (s.withFetchWord nbits w) = exec i ({ s with rdata := none } : State).enginePhase

/-- 70_reset_and_hazards.md section 3: while a command has more than one cycle left, a write to `CMD` is rejected with BUSY, whatever the word. That the host's inputs move on and the returned value is cleared is the model's choice (logs 2 and 3). -/
def Obligations.BusyWindowRejectsEveryWord : Prop :=
  ∀ (s : State) (v : Word), s.busy = true → 2 ≤ s.rem → Writes s 0x18#6 v →
    step s =
      .next (({ s with host := s.host.tail, rdata := none, rem := s.rem - 1 } : State).cmdError .busy)

/-- R81: in the completion cycle the completion comes first: (a) a command is accepted; (b) a `STATUS` write with bit 1 set clears the DONE just set, so that `irq` does not rise for it; (c) a rejection shows together with DONE; (d) after REKEY a host write to a word of `KEY` leaves the host's value there and the result in the other three. -/
def Obligations.CompletionPrecedesTransaction : Prop :=
  ∀ (s : State), Completing s →
    (∀ (v : Word) (i : Instr), Writes s 0x18#6 v → decodeCmd v = .ok i →
      ∃ t, step s = .next t ∧ t.lastop = v.extractLsb' 0 8 ∧ t.done = true ∧
        t.out = CipherCore.encrypt s.engKey s.engIn ∧ t.err = s.err) ∧
    (∀ v : Word, Writes s 0x19#6 v → v.getLsbD 1 = true →
      ∃ t, step s = .next t ∧ t.done = false ∧ t.busy = false ∧
        t.out = CipherCore.encrypt s.engKey s.engIn ∧ irq t = (t.err && t.errIe)) ∧
    (∀ (v : Word) (c : ErrCode), Writes s 0x18#6 v → decodeCmd v = .error c →
      ∃ t, step s = .next t ∧ t.done = true ∧ t.err = true ∧ t.busy = false ∧
        c ≠ .busy ∧ t.errcode = (if s.err then s.errcode else c) ∧
        t.out = CipherCore.encrypt s.engKey s.engIn) ∧
    (∀ (i : Fin 4) (v : Word), s.engOp = 0x03#8 → Writes s (BitVec.ofNat 6 i.val) v →
      ∃ t, step s = .next t ∧ quadGet t.key i = v ∧
        ∀ j : Fin 4, j ≠ i →
          quadGet t.key j = quadGet (CipherCore.encrypt s.engKey s.engIn) j)

/-- R80: `irq` is a level computed from the state: 0 at reset, 1 exactly while an enabled source is 1, and it falls when the source is cleared or its enable is. -/
def Obligations.IrqFollowsEnabledSources : Prop :=
  (∀ s : State, irq s = true ↔
    (s.done = true ∧ s.doneIe = true) ∨ (s.err = true ∧ s.errIe = true)) ∧
  irq State.reset = false ∧
  (∀ s : State, ∃ t, exec (.regWrite 0x19#6 0x6#64) s = .next t ∧ irq t = false) ∧
  (∀ s : State, ∃ t, exec (.regWrite 0x1A#6 0x0#64) s = .next t ∧ irq t = false)

/-- R29: the reset value of every piece of state; `OUT` after reset is not `E(0, 0)`. -/
def Obligations.ResetLeavesEveryFieldZero : Prop :=
  State.reset.key = ⟨0#64, 0#64, 0#64, 0#64⟩ ∧
  State.reset.blk = ⟨0#64, 0#64, 0#64, 0#64⟩ ∧
  State.reset.count = 0#64 ∧ State.reset.bits = 0#64 ∧
  State.reset.out = ⟨0#64, 0#64, 0#64, 0#64⟩ ∧
  (∀ j : Fin 8, readReg State.reset (BitVec.ofNat 6 (0x10 + j.val)) = 0#64) ∧
  State.reset.busy = false ∧ State.reset.done = false ∧ State.reset.err = false ∧
  State.reset.errcode = .none ∧ State.reset.lastop = 0#8 ∧
  State.reset.doneIe = false ∧ State.reset.errIe = false ∧
  State.reset.engOp = 0#8 ∧ State.reset.engKey = ⟨0#64, 0#64, 0#64, 0#64⟩ ∧
  State.reset.engIn = ⟨0#64, 0#64, 0#64, 0#64⟩ ∧ State.reset.rem = 0 ∧
  readReg State.reset 0x1B#6 = 0x5446323536434307#64 ∧
  irq State.reset = false ∧
  State.reset.out ≠
    CipherCore.encrypt ⟨0#64, 0#64, 0#64, 0#64⟩ ⟨0#64, 0#64, 0#64, 0#64⟩ ∧
  (CipherCore.encrypt ⟨0#64, 0#64, 0#64, 0#64⟩ ⟨0#64, 0#64, 0#64, 0#64⟩).w0 =
    0x94EEEA8B1F2ADA84#64

/-- 70_reset_and_hazards.md section 1: a cycle with `rst` = 1 leaves every piece of state at its reset value, drops the transaction (a read returns 0), and takes the host's input of that cycle. That the returned value is `none` without a transaction or for a write (log 3), that the host's inputs move on (log 2) and that the instance is a field that stays (log 1) are the model's choices. -/
def Obligations.ResetCycleRestoresResetState : Prop :=
  ∀ s : State, s.input.rst = true →
    ∃ t, step s = .next t ∧
      t = { State.resetFor s.inst with host := s.host.tail, rdata := t.rdata } ∧
      (s.input.txn = none → t.rdata = none) ∧
      (∀ x : Txn, s.input.txn = some x → x.we = false → t.rdata = some 0#64) ∧
      (∀ x : Txn, s.input.txn = some x → x.we = true → t.rdata = none)

/-- R86: a reset abandons an engine command in flight: BUSY and DONE are 0, no error is recorded, the enables and `irq` are 0, `ID` is unchanged, and the abandoned result is not written later: phase (a) of the state does nothing. -/
def Obligations.ResetAbandonsCommandInFlight : Prop :=
  ∀ s : State, s.input.rst = true →
    ∃ t, step s = .next t ∧ t.busy = false ∧ t.done = false ∧ t.err = false ∧
      t.errcode = .none ∧ t.doneIe = false ∧ t.errIe = false ∧ irq t = false ∧
      t.out = ⟨0#64, 0#64, 0#64, 0#64⟩ ∧ t.key = ⟨0#64, 0#64, 0#64, 0#64⟩ ∧
      t.enginePhase = t ∧ readReg t 0x1B#6 = readReg s 0x1B#6

/-! Whole-machine statements. -/

/-- 60_exceptions.md section 1 and 30_encoding.md section 4: nothing stops the machine: every step answers a next state, and `CC_LATENCY` never changes. That the latency is a field of the state is the model's choice (log 1). -/
def Obligations.EveryStepAnswersNext : Prop :=
  ∀ s : State, ∃ t, step s = .next t ∧ t.inst = s.inst

/-- 10_state.md sections 4 and 5: the state after reset is legal. -/
def Obligations.ResetStateIsLegal : Prop := Legal State.reset

/-- 10_state.md sections 4 and 5: every step from a legal state leads to a legal state: REM stays between 1 and CC_LATENCY while BUSY = 1 and is 0 else; ERRCODE is 0 exactly while ERR is 0; LASTOP is an assigned opcode, and the engine's own while BUSY = 1; a Mixer command's captured block ends in two zero words. -/
def Obligations.EveryStepKeepsLegality : Prop :=
  ∀ s t : State, Legal s → step s = .next t → Legal t

/-- 10_state.md section 3: in a cycle without reset, a data register changes only as the spec lists: `KEY` by a host write to it or the completion of REKEY, `BLK` by a host write to it, `COUNT` and `BITS` by a host write to them or the commands that write them, `OUT` by a completion. -/
def Obligations.DataRegistersChangeOnlyAsListed : Prop :=
  ∀ s t : State, Legal s → s.input.rst = false → step s = .next t →
    (t.key ≠ s.key →
      (∃ a v, Writes s a v ∧ a.toNat ≤ 0x03) ∨ (Completing s ∧ s.engOp = 0x03#8)) ∧
    (t.blk ≠ s.blk → ∃ a v, Writes s a v ∧ 0x04 ≤ a.toNat ∧ a.toNat ≤ 0x07) ∧
    (t.count ≠ s.count →
      (∃ v, Writes s 0x08#6 v) ∨
      ∃ v, Writes s 0x18#6 v ∧ v.extractLsb' 0 8 ∈ [0x10#8, 0x14#8]) ∧
    (t.bits ≠ s.bits →
      (∃ v, Writes s 0x09#6 v) ∨
      ∃ v, Writes s 0x18#6 v ∧ v.extractLsb' 0 8 ∈ [0x10#8, 0x11#8, 0x12#8, 0x13#8]) ∧
    (t.out ≠ s.out → Completing s ∧ t.out = CipherCore.encrypt s.engKey s.engIn)

/-- 10_state.md section 4: in a cycle without reset, a field of `STATUS` or `CTRL` changes only as the spec lists: BUSY rises only with an accepted engine command and falls only with a completion; DONE rises only with a completion and falls only with a `STATUS` write with bit 1; ERR rises only with a write to `CMD`, and it falls, or the recorded code changes, only with a `STATUS` write with bit 2; LASTOP becomes the opcode of a command just written; the enables change only with a write to `CTRL`. -/
def Obligations.FlagsChangeOnlyAsListed : Prop :=
  ∀ s t : State, Legal s → s.input.rst = false → step s = .next t →
    (s.busy = false → t.busy = true →
      ∃ v, Writes s 0x18#6 v ∧ v.extractLsb' 0 8 ∈ [0x01#8, 0x02#8, 0x03#8]) ∧
    (s.busy = true → t.busy = false → Completing s) ∧
    (s.done = false → t.done = true → Completing s) ∧
    (s.done = true → t.done = false → ∃ v, Writes s 0x19#6 v ∧ v.getLsbD 1 = true) ∧
    (s.err = false → t.err = true → ∃ v, Writes s 0x18#6 v) ∧
    (s.err = true → t.err = false ∨ t.errcode ≠ s.errcode →
      ∃ v, Writes s 0x19#6 v ∧ v.getLsbD 2 = true) ∧
    (t.lastop ≠ s.lastop → ∃ v, Writes s 0x18#6 v ∧ t.lastop = v.extractLsb' 0 8) ∧
    (t.doneIe ≠ s.doneIe ∨ t.errIe ≠ s.errIe → ∃ v, Writes s 0x1A#6 v)

/-- 10_state.md section 4 and 60_exceptions.md section 3: DONE, ERR, ERRCODE and the enables steer nothing: two states that differ only in them (and in the value the port returned last) step to states that differ only in them; the port returns the same value unless the cycle reads `STATUS` or `CTRL`. That the returned value is a field, `none` without a read, is the model's choice (log 3). -/
def Obligations.StickyFlagsSteerNothing : Prop :=
  ∀ s1 s2 : State, s1.withoutFlags = s2.withoutFlags →
    ∃ t1 t2, step s1 = .next t1 ∧ step s2 = .next t2 ∧ t1.withoutFlags = t2.withoutFlags ∧
      ((∀ x : Txn, s1.input.txn = some x → x.addr ≠ 0x19#6 ∧ x.addr ≠ 0x1A#6) →
        t1.rdata = t2.rdata)

/-! Decoding and encoding (30_encoding.md). -/

/-- 30_encoding.md sections 1 to 3: decode and encode agree for every well-formed instruction, with every operand at every value: a transaction's instruction is read back from its transaction, and a command's from the word its transaction writes to `CMD`. -/
def Obligations.DecodeOfEncodeIsIdentity : Prop :=
  ∀ i : Instr, WellFormed i →
    (((∃ a, i = .regRead a) ∨ (∃ a v, i = .regWrite a v)) ∧ decodeBus (encode i) = i) ∨
    (decodeBus (encode i) = .regWrite 0x18#6 (encode i).wdata ∧
      decodeCmd (encode i).wdata = .ok i)

/-- 30_encoding.md sections 1 to 3: what decodes is well formed and is the encoding of what it decodes to, so no two words stand for one command. -/
def Obligations.DecodedCommandReencodes : Prop :=
  ∀ (v : Word) (i : Instr), decodeCmd v = .ok i →
    WellFormed i ∧ encode i = { we := true, addr := 0x18#6, wdata := v }

/-- 30_encoding.md section 3: the decoder answers as the one written from the match and mask table alone does: no row, a failed mask, a failed range, or the row's instruction. -/
def Obligations.DecoderFollowsMatchMaskTable : Prop :=
  ∀ v : Word,
    ((∀ op : CmdOp, v.extractLsb' 0 8 ≠ op.code) → decodeCmd v = .error .illegalOp) ∧
    ∀ op : CmdOp, v.extractLsb' 0 8 = op.code →
      (v &&& rowMask op ≠ rowMatch op → decodeCmd v = .error .reservedField) ∧
      (v &&& rowMask op = rowMatch op →
        ¬ rowRange op (v.extractLsb' 16 8) (v.extractLsb' 8 8) →
        decodeCmd v = .error .invalidArg) ∧
      (v &&& rowMask op = rowMatch op →
        rowRange op (v.extractLsb' 16 8) (v.extractLsb' 8 8) →
        decodeCmd v =
          .ok (op.instr (v.extractLsb' 32 32) (v.extractLsb' 16 8) (v.extractLsb' 8 8)))

/-- 30_encoding.md section 3: words written out from the table of bit patterns decode to the instructions they stand for, one of each family. -/
def Obligations.SampleWordsDecode : Prop :=
  decodeCmd 0x0000000000000001#64 = .ok .encrypt ∧
  decodeCmd 0x0000000000000002#64 = .ok .mash ∧
  decodeCmd 0x0000000000000003#64 = .ok .rekey ∧
  decodeCmd 0x0000000000003F11#64 = .ok (.accSetbit 63#8) ∧
  decodeCmd 0x000ABCDE00143212#64 = .ok (.accInsert 0xABCDE#32 20#8 50#8) ∧
  decodeCmd 0x000ABCDE00140E13#64 = .ok (.accCarry 0xABCDE#32 20#8 14#8) ∧
  decodeBus (txnOfHeader 0b0011011#7 0#64) = .regRead 0x1B#6 ∧
  decodeBus (txnOfHeader 0b1001000#7 5#64) = .regWrite 0x08#6 5#64

/-! Host programs (30_encoding.md section 5). -/

/-- 30_encoding.md section 5: the assembler rejects exactly an `A`, `B` or `IMM` that does not fit its field, and else writes to `CMD` the word whose fields they are; ranges are not checked. The abstract syntax of host programs is the model's choice (log 14). -/
def Obligations.AssembledCommandHoldsItsFields : Prop :=
  (∀ a : Nat,
    (256 ≤ a → assemble (.accSetbit a) = none) ∧
    (a < 256 → assemble (.accSetbit a) =
      some [encode (.accSetbit (BitVec.ofNat 8 a))])) ∧
  (∀ imm b a : Nat,
    (2 ^ 32 ≤ imm ∨ 256 ≤ b ∨ 256 ≤ a →
      assemble (.accInsert imm b a) = none ∧ assemble (.accCarry imm b a) = none) ∧
    (imm < 2 ^ 32 → b < 256 → a < 256 →
      assemble (.accInsert imm b a) =
        some [encode (.accInsert (BitVec.ofNat 32 imm) (BitVec.ofNat 8 b) (BitVec.ofNat 8 a))] ∧
      assemble (.accCarry imm b a) =
        some [encode (.accCarry (BitVec.ofNat 32 imm) (BitVec.ofNat 8 b) (BitVec.ofNat 8 a))]))

/-- 30_encoding.md section 5: with a command in flight, a host that reads `STATUS` in every cycle reads BUSY = 1 until the command's last cycle, and in that cycle reads BUSY = 0; right after an issue that is the `CC_LATENCY`-th read. The list of inputs and the number of reads written out for `wait` are the model's choices (logs 2 and 14). -/
def Obligations.WaitReadsUntilCompletion : Prop :=
  (∀ (s : State) (rest : List PortInput), s.busy = true → 1 ≤ s.rem →
    s.host = List.replicate s.rem { rst := false, txn := some (rdTxn 0x19#6) } ++ rest →
    ∀ n, 1 ≤ n → n ≤ s.rem →
      ∃ t v, stepN n s = .next t ∧ t.rdata = some v ∧ v.getLsbD 0 = decide (n < s.rem)) ∧
  (∀ s t : State, s.busy = false →
    exec .encrypt s = .next t ∨ exec .mash s = .next t ∨ exec .rekey s = .next t →
    t.rem = s.inst.ccLatency ∧ waitReads s.inst 1 = s.inst.ccLatency)
end

