-- ==== Sys2Proof/Laws/Decode.lean ====
section
/-! SUPPORT. The fields of a command word, and what the decoder answers. -/

namespace Sys2Proof

/-- The bits of five fields side by side (R42). -/
theorem fields_getLsbD (imm : Half) (rsv b a op : Byte) (i : Nat) :
    BitVec.getLsbD (w := 64) (imm ++ (rsv ++ (b ++ (a ++ op)))) i =
      if i < 8 then op.getLsbD i
      else if i < 16 then a.getLsbD (i - 8)
      else if i < 24 then b.getLsbD (i - 16)
      else if i < 32 then rsv.getLsbD (i - 24)
      else imm.getLsbD (i - 32) := by
  change BitVec.getLsbD (w := 32 + (8 + (8 + (8 + 8)))) (imm ++ (rsv ++ (b ++ (a ++ op)))) i = _
  simp only [BitVec.getLsbD_append]
  by_cases h8 : i < 8
  · simp [h8, show i < 16 by omega, show i < 24 by omega, show i < 32 by omega]
  by_cases h16 : i < 16
  · simp [h8, h16, show i < 24 by omega, show i < 32 by omega]
  by_cases h24 : i < 24
  · simp [h8, h16, h24, show i < 32 by omega]
  by_cases h32 : i < 32
  · simp [h8, h16, h24, h32]
  · simp [h8, h16, h24, h32]

section Fields
variable (op : CmdOp) (imm : Half) (b a : Byte)

/-- The bits of a command word (R42). -/
theorem cmdWord_getLsbD (i : Nat) :
    (cmdWord op imm b a).getLsbD i =
      if i < 8 then op.code.getLsbD i
      else if i < 16 then a.getLsbD (i - 8)
      else if i < 24 then b.getLsbD (i - 16)
      else if i < 32 then (0#8).getLsbD (i - 24)
      else imm.getLsbD (i - 32) :=
  fields_getLsbD imm 0#8 b a op.code i

@[simp] theorem fieldOp_cmdWord : fieldOp (cmdWord op imm b a) = op.code := by
  ext i hi
  simp [fieldOp, cmdWord_getLsbD, hi]

@[simp] theorem fieldA_cmdWord : fieldA (cmdWord op imm b a) = a := by
  ext i hi
  simp [fieldA, cmdWord_getLsbD, hi, show 8 + i < 16 by omega]

@[simp] theorem fieldB_cmdWord : fieldB (cmdWord op imm b a) = b := by
  ext i hi
  simp [fieldB, cmdWord_getLsbD, hi, show ¬ 16 + i < 8 by omega, show 16 + i < 24 by omega]

@[simp] theorem fieldRsv_cmdWord : fieldRsv (cmdWord op imm b a) = 0#8 := by
  ext i hi
  simp [fieldRsv, cmdWord_getLsbD, show ¬ 24 + i < 8 by omega, show ¬ 24 + i < 16 by omega,
    show 24 + i < 32 by omega]

@[simp] theorem fieldImm_cmdWord : fieldImm (cmdWord op imm b a) = imm := by
  ext i hi
  simp [fieldImm, cmdWord_getLsbD, hi, show ¬ 32 + i < 8 by omega, show ¬ 32 + i < 16 by omega,
    show ¬ 32 + i < 24 by omega]

end Fields

/-- A word is its five fields side by side. -/
theorem word_eq_fields (v : Word) :
    v = fieldImm v ++ (fieldRsv v ++ (fieldB v ++ (fieldA v ++ fieldOp v))) := by
  apply BitVec.eq_of_getLsbD_eq
  intro i hi
  rw [fields_getLsbD]
  simp only [fieldOp, fieldA, fieldB, fieldRsv, fieldImm, BitVec.getLsbD_extractLsb']
  grind

/-- Two words with the same five fields are the same word. -/
theorem word_ext {v w : Word} (ho : fieldOp v = fieldOp w) (ha : fieldA v = fieldA w)
    (hb : fieldB v = fieldB w) (hr : fieldRsv v = fieldRsv w) (hi : fieldImm v = fieldImm w) :
    v = w := by
  rw [word_eq_fields v, word_eq_fields w, ho, ha, hb, hr, hi]

theorem opOf_code (op : CmdOp) : opOf op.code = some op := by
  cases op <;> decide

theorem opOf_eq_some_iff {n : Byte} {op : CmdOp} : opOf n = some op ↔ n = op.code := by
  constructor
  · intro h
    have := List.find?_some h
    exact (beq_iff_eq.mp this).symm
  · rintro rfl
    exact opOf_code op

theorem opOf_eq_none_iff {n : Byte} : opOf n = none ↔ ∀ op : CmdOp, n ≠ op.code := by
  constructor
  · rintro h op rfl
    simp [opOf_code] at h
  · intro h
    cases hn : opOf n with
    | none => rfl
    | some op => exact absurd (opOf_eq_some_iff.mp hn) (h op)

theorem code_injective {p q : CmdOp} (h : p.code = q.code) : p = q := by
  have := opOf_code p
  rw [h, opOf_code] at this
  exact (Option.some.inj this).symm

/-- R45, field by field. -/
theorem reservedClear_iff {op : CmdOp} {v : Word} :
    reservedClear op v = true ↔
      fieldRsv v = 0#8 ∧ (op.usesA = false → fieldA v = 0#8) ∧
        (op.usesBImm = false → fieldB v = 0#8 ∧ fieldImm v = 0#32) := by
  unfold reservedClear
  cases op.usesA <;> cases op.usesBImm <;> simp [and_assoc]

theorem decodeOp_eq_ok_iff {v : Word} {op : CmdOp} :
    decodeOp v = .ok op ↔ fieldOp v = op.code ∧ reservedClear op v = true := by
  unfold decodeOp
  split
  · rename_i h
    simp [opOf_eq_none_iff.mp h op]
  · rename_i p h
    have hp := opOf_eq_some_iff.mp h
    split
    · rename_i hr
      constructor
      · intro e
        cases e
        exact ⟨hp, hr⟩
      · rintro ⟨ho, -⟩
        rw [code_injective (hp.symm.trans ho)]
    · rename_i hr
      constructor
      · intro e
        cases e
      · rintro ⟨ho, hc⟩
        rw [← code_injective (hp.symm.trans ho)] at hc
        exact absurd hc hr

/-- The only rejections of steps 2 and 3 of R44's decoder. -/
theorem decodeOp_error_cases {v : Word} {c : ErrCode} (h : decodeOp v = .error c) :
    (c = .illegalOp ∧ ∀ op : CmdOp, fieldOp v ≠ op.code) ∨
      (c = .reservedField ∧ ∃ op : CmdOp, fieldOp v = op.code ∧ reservedClear op v = false) := by
  unfold decodeOp at h
  split at h
  · rename_i hn
    cases h
    exact .inl ⟨rfl, opOf_eq_none_iff.mp hn⟩
  · rename_i p hp
    split at h
    · cases h
    · rename_i hr
      cases h
      exact .inr ⟨rfl, p, opOf_eq_some_iff.mp hp, by simpa using hr⟩

/-- The decoder answers an instruction exactly where every check of R44 passes. -/
theorem decodeCmd_eq_ok_iff {v : Word} {i : Instr} :
    decodeCmd v = .ok i ↔
      ∃ op : CmdOp, fieldOp v = op.code ∧ reservedClear op v = true ∧
        op.argsOk (fieldB v) (fieldA v) = true ∧
        i = op.instr (fieldImm v) (fieldB v) (fieldA v) := by
  unfold decodeCmd
  split
  · rename_i c h
    constructor
    · intro e
      cases e
    · rintro ⟨op, ho, hr, -⟩
      rw [decodeOp_eq_ok_iff.mpr ⟨ho, hr⟩] at h
      cases h
  · rename_i op h
    obtain ⟨ho, hr⟩ := decodeOp_eq_ok_iff.mp h
    constructor
    · intro e
      split at e
      · cases e
        exact ⟨op, ho, hr, ‹_›, rfl⟩
      · cases e
    · rintro ⟨p, hp, -, hargs, rfl⟩
      rw [code_injective (hp.symm.trans ho)] at hargs ⊢
      simp [hargs]

end Sys2Proof
end

