-- ==== Sys2Proof/Laws/Operands.lean ====
section
/-! SUPPORT. The bits and the values of the accumulator commands' operands (42_accumulator.md R69 to R71). -/

namespace Sys2Proof.Machine

theorem trunc64_getLsbD (n j : Nat) :
    (trunc64 n).getLsbD j = (decide (j < 64) && n.testBit j) := by
  unfold trunc64
  exact BitVec.getLsbD_ofNat 64 n j

theorem pathBits_eq (imm : Half) (b : Byte) : pathBits imm b = imm.toNat % 2 ^ b.toNat :=
  Nat.and_two_pow_sub_one_eq_mod imm.toNat b.toNat

theorem pathBits_testBit (imm : Half) (b : Byte) (j : Nat) :
    (pathBits imm b).testBit j = (decide (j < b.toNat) && imm.getLsbD j) := by
  rw [pathBits_eq, Nat.testBit_mod_two_pow]
  rfl

theorem setbitOperand_getLsbD (a : Byte) (j : Nat) :
    (setbitOperand a).getLsbD j = (decide (j < 64) && decide (j = a.toNat)) := by
  rw [setbitOperand, trunc64_getLsbD, Nat.one_shiftLeft, Nat.testBit_two_pow]
  simp [eq_comm]

theorem insertOperand_getLsbD (imm : Half) (b a : Byte) (j : Nat) :
    (insertOperand imm b a).getLsbD j =
      (decide (j < 64) && (decide (a.toNat ≤ j) &&
        (decide (j - a.toNat < b.toNat) && imm.getLsbD (j - a.toNat)))) := by
  rw [insertOperand, trunc64_getLsbD, Nat.testBit_shiftLeft, pathBits_testBit]

theorem insertOperand_toNat (imm : Half) (b a : Byte) :
    (insertOperand imm b a).toNat = (imm.toNat % 2 ^ b.toNat * 2 ^ a.toNat) % 2 ^ 64 := by
  rw [insertOperand, pathBits_eq, Nat.shiftLeft_eq]
  rfl

theorem carryOperand_toNat (imm : Half) (b a : Byte) :
    (carryOperand imm b a).toNat = imm.toNat % 2 ^ b.toNat / 2 ^ a.toNat := by
  have h : imm.toNat % 2 ^ b.toNat / 2 ^ a.toNat ≤ imm.toNat :=
    (Nat.div_le_self _ _).trans (Nat.mod_le _ _)
  have := imm.isLt
  rw [carryOperand, pathBits_eq, Nat.shiftRight_eq_div_pow]
  exact Nat.mod_eq_of_lt (by omega)

end Sys2Proof.Machine
end

