-- ==== Sys2Proof/Laws/State.lean ====
section
/-! SUPPORT. What each update of the state leaves in each field. -/

namespace Sys2Proof.Machine

@[simp] theorem State.clearDone_inst (s : State) : (s.clearDone).inst = s.inst := rfl
@[simp] theorem State.clearDone_key (s : State) : (s.clearDone).key = s.key := rfl
@[simp] theorem State.clearDone_blk (s : State) : (s.clearDone).blk = s.blk := rfl
@[simp] theorem State.clearDone_count (s : State) : (s.clearDone).count = s.count := rfl
@[simp] theorem State.clearDone_bits (s : State) : (s.clearDone).bits = s.bits := rfl
@[simp] theorem State.clearDone_out (s : State) : (s.clearDone).out = s.out := rfl
@[simp] theorem State.clearDone_busy (s : State) : (s.clearDone).busy = s.busy := rfl
@[simp] theorem State.clearDone_done (s : State) : (s.clearDone).done = false := rfl
@[simp] theorem State.clearDone_err (s : State) : (s.clearDone).err = s.err := rfl
@[simp] theorem State.clearDone_errcode (s : State) : (s.clearDone).errcode = s.errcode := rfl
@[simp] theorem State.clearDone_lastop (s : State) : (s.clearDone).lastop = s.lastop := rfl
@[simp] theorem State.clearDone_doneIe (s : State) : (s.clearDone).doneIe = s.doneIe := rfl
@[simp] theorem State.clearDone_errIe (s : State) : (s.clearDone).errIe = s.errIe := rfl
@[simp] theorem State.clearDone_engOp (s : State) : (s.clearDone).engOp = s.engOp := rfl
@[simp] theorem State.clearDone_engKey (s : State) : (s.clearDone).engKey = s.engKey := rfl
@[simp] theorem State.clearDone_engIn (s : State) : (s.clearDone).engIn = s.engIn := rfl
@[simp] theorem State.clearDone_rem (s : State) : (s.clearDone).rem = s.rem := rfl
@[simp] theorem State.clearDone_host (s : State) : (s.clearDone).host = s.host := rfl
@[simp] theorem State.clearDone_rdata (s : State) : (s.clearDone).rdata = s.rdata := rfl

@[simp] theorem State.clearErr_inst (s : State) : (s.clearErr).inst = s.inst := rfl
@[simp] theorem State.clearErr_key (s : State) : (s.clearErr).key = s.key := rfl
@[simp] theorem State.clearErr_blk (s : State) : (s.clearErr).blk = s.blk := rfl
@[simp] theorem State.clearErr_count (s : State) : (s.clearErr).count = s.count := rfl
@[simp] theorem State.clearErr_bits (s : State) : (s.clearErr).bits = s.bits := rfl
@[simp] theorem State.clearErr_out (s : State) : (s.clearErr).out = s.out := rfl
@[simp] theorem State.clearErr_busy (s : State) : (s.clearErr).busy = s.busy := rfl
@[simp] theorem State.clearErr_done (s : State) : (s.clearErr).done = s.done := rfl
@[simp] theorem State.clearErr_err (s : State) : (s.clearErr).err = false := rfl
@[simp] theorem State.clearErr_errcode (s : State) : (s.clearErr).errcode = .none := rfl
@[simp] theorem State.clearErr_lastop (s : State) : (s.clearErr).lastop = s.lastop := rfl
@[simp] theorem State.clearErr_doneIe (s : State) : (s.clearErr).doneIe = s.doneIe := rfl
@[simp] theorem State.clearErr_errIe (s : State) : (s.clearErr).errIe = s.errIe := rfl
@[simp] theorem State.clearErr_engOp (s : State) : (s.clearErr).engOp = s.engOp := rfl
@[simp] theorem State.clearErr_engKey (s : State) : (s.clearErr).engKey = s.engKey := rfl
@[simp] theorem State.clearErr_engIn (s : State) : (s.clearErr).engIn = s.engIn := rfl
@[simp] theorem State.clearErr_rem (s : State) : (s.clearErr).rem = s.rem := rfl
@[simp] theorem State.clearErr_host (s : State) : (s.clearErr).host = s.host := rfl
@[simp] theorem State.clearErr_rdata (s : State) : (s.clearErr).rdata = s.rdata := rfl

@[simp] theorem State.setCtrl_inst (s : State) (v : Word) : (s.setCtrl v).inst = s.inst := rfl
@[simp] theorem State.setCtrl_key (s : State) (v : Word) : (s.setCtrl v).key = s.key := rfl
@[simp] theorem State.setCtrl_blk (s : State) (v : Word) : (s.setCtrl v).blk = s.blk := rfl
@[simp] theorem State.setCtrl_count (s : State) (v : Word) : (s.setCtrl v).count = s.count := rfl
@[simp] theorem State.setCtrl_bits (s : State) (v : Word) : (s.setCtrl v).bits = s.bits := rfl
@[simp] theorem State.setCtrl_out (s : State) (v : Word) : (s.setCtrl v).out = s.out := rfl
@[simp] theorem State.setCtrl_busy (s : State) (v : Word) : (s.setCtrl v).busy = s.busy := rfl
@[simp] theorem State.setCtrl_done (s : State) (v : Word) : (s.setCtrl v).done = s.done := rfl
@[simp] theorem State.setCtrl_err (s : State) (v : Word) : (s.setCtrl v).err = s.err := rfl
@[simp] theorem State.setCtrl_errcode (s : State) (v : Word) : (s.setCtrl v).errcode = s.errcode := rfl
@[simp] theorem State.setCtrl_lastop (s : State) (v : Word) : (s.setCtrl v).lastop = s.lastop := rfl
@[simp] theorem State.setCtrl_doneIe (s : State) (v : Word) : (s.setCtrl v).doneIe = v.getLsbD 0 := rfl
@[simp] theorem State.setCtrl_errIe (s : State) (v : Word) : (s.setCtrl v).errIe = v.getLsbD 1 := rfl
@[simp] theorem State.setCtrl_engOp (s : State) (v : Word) : (s.setCtrl v).engOp = s.engOp := rfl
@[simp] theorem State.setCtrl_engKey (s : State) (v : Word) : (s.setCtrl v).engKey = s.engKey := rfl
@[simp] theorem State.setCtrl_engIn (s : State) (v : Word) : (s.setCtrl v).engIn = s.engIn := rfl
@[simp] theorem State.setCtrl_rem (s : State) (v : Word) : (s.setCtrl v).rem = s.rem := rfl
@[simp] theorem State.setCtrl_host (s : State) (v : Word) : (s.setCtrl v).host = s.host := rfl
@[simp] theorem State.setCtrl_rdata (s : State) (v : Word) : (s.setCtrl v).rdata = s.rdata := rfl

@[simp] theorem State.setKey_inst (s : State) (q : Quad) : (s.setKey q).inst = s.inst := rfl
@[simp] theorem State.setKey_key (s : State) (q : Quad) : (s.setKey q).key = q := rfl
@[simp] theorem State.setKey_blk (s : State) (q : Quad) : (s.setKey q).blk = s.blk := rfl
@[simp] theorem State.setKey_count (s : State) (q : Quad) : (s.setKey q).count = s.count := rfl
@[simp] theorem State.setKey_bits (s : State) (q : Quad) : (s.setKey q).bits = s.bits := rfl
@[simp] theorem State.setKey_out (s : State) (q : Quad) : (s.setKey q).out = s.out := rfl
@[simp] theorem State.setKey_busy (s : State) (q : Quad) : (s.setKey q).busy = s.busy := rfl
@[simp] theorem State.setKey_done (s : State) (q : Quad) : (s.setKey q).done = s.done := rfl
@[simp] theorem State.setKey_err (s : State) (q : Quad) : (s.setKey q).err = s.err := rfl
@[simp] theorem State.setKey_errcode (s : State) (q : Quad) : (s.setKey q).errcode = s.errcode := rfl
@[simp] theorem State.setKey_lastop (s : State) (q : Quad) : (s.setKey q).lastop = s.lastop := rfl
@[simp] theorem State.setKey_doneIe (s : State) (q : Quad) : (s.setKey q).doneIe = s.doneIe := rfl
@[simp] theorem State.setKey_errIe (s : State) (q : Quad) : (s.setKey q).errIe = s.errIe := rfl
@[simp] theorem State.setKey_engOp (s : State) (q : Quad) : (s.setKey q).engOp = s.engOp := rfl
@[simp] theorem State.setKey_engKey (s : State) (q : Quad) : (s.setKey q).engKey = s.engKey := rfl
@[simp] theorem State.setKey_engIn (s : State) (q : Quad) : (s.setKey q).engIn = s.engIn := rfl
@[simp] theorem State.setKey_rem (s : State) (q : Quad) : (s.setKey q).rem = s.rem := rfl
@[simp] theorem State.setKey_host (s : State) (q : Quad) : (s.setKey q).host = s.host := rfl
@[simp] theorem State.setKey_rdata (s : State) (q : Quad) : (s.setKey q).rdata = s.rdata := rfl

@[simp] theorem State.setBlk_inst (s : State) (q : Quad) : (s.setBlk q).inst = s.inst := rfl
@[simp] theorem State.setBlk_key (s : State) (q : Quad) : (s.setBlk q).key = s.key := rfl
@[simp] theorem State.setBlk_blk (s : State) (q : Quad) : (s.setBlk q).blk = q := rfl
@[simp] theorem State.setBlk_count (s : State) (q : Quad) : (s.setBlk q).count = s.count := rfl
@[simp] theorem State.setBlk_bits (s : State) (q : Quad) : (s.setBlk q).bits = s.bits := rfl
@[simp] theorem State.setBlk_out (s : State) (q : Quad) : (s.setBlk q).out = s.out := rfl
@[simp] theorem State.setBlk_busy (s : State) (q : Quad) : (s.setBlk q).busy = s.busy := rfl
@[simp] theorem State.setBlk_done (s : State) (q : Quad) : (s.setBlk q).done = s.done := rfl
@[simp] theorem State.setBlk_err (s : State) (q : Quad) : (s.setBlk q).err = s.err := rfl
@[simp] theorem State.setBlk_errcode (s : State) (q : Quad) : (s.setBlk q).errcode = s.errcode := rfl
@[simp] theorem State.setBlk_lastop (s : State) (q : Quad) : (s.setBlk q).lastop = s.lastop := rfl
@[simp] theorem State.setBlk_doneIe (s : State) (q : Quad) : (s.setBlk q).doneIe = s.doneIe := rfl
@[simp] theorem State.setBlk_errIe (s : State) (q : Quad) : (s.setBlk q).errIe = s.errIe := rfl
@[simp] theorem State.setBlk_engOp (s : State) (q : Quad) : (s.setBlk q).engOp = s.engOp := rfl
@[simp] theorem State.setBlk_engKey (s : State) (q : Quad) : (s.setBlk q).engKey = s.engKey := rfl
@[simp] theorem State.setBlk_engIn (s : State) (q : Quad) : (s.setBlk q).engIn = s.engIn := rfl
@[simp] theorem State.setBlk_rem (s : State) (q : Quad) : (s.setBlk q).rem = s.rem := rfl
@[simp] theorem State.setBlk_host (s : State) (q : Quad) : (s.setBlk q).host = s.host := rfl
@[simp] theorem State.setBlk_rdata (s : State) (q : Quad) : (s.setBlk q).rdata = s.rdata := rfl

@[simp] theorem State.setCount_inst (s : State) (v : Word) : (s.setCount v).inst = s.inst := rfl
@[simp] theorem State.setCount_key (s : State) (v : Word) : (s.setCount v).key = s.key := rfl
@[simp] theorem State.setCount_blk (s : State) (v : Word) : (s.setCount v).blk = s.blk := rfl
@[simp] theorem State.setCount_count (s : State) (v : Word) : (s.setCount v).count = v := rfl
@[simp] theorem State.setCount_bits (s : State) (v : Word) : (s.setCount v).bits = s.bits := rfl
@[simp] theorem State.setCount_out (s : State) (v : Word) : (s.setCount v).out = s.out := rfl
@[simp] theorem State.setCount_busy (s : State) (v : Word) : (s.setCount v).busy = s.busy := rfl
@[simp] theorem State.setCount_done (s : State) (v : Word) : (s.setCount v).done = s.done := rfl
@[simp] theorem State.setCount_err (s : State) (v : Word) : (s.setCount v).err = s.err := rfl
@[simp] theorem State.setCount_errcode (s : State) (v : Word) : (s.setCount v).errcode = s.errcode := rfl
@[simp] theorem State.setCount_lastop (s : State) (v : Word) : (s.setCount v).lastop = s.lastop := rfl
@[simp] theorem State.setCount_doneIe (s : State) (v : Word) : (s.setCount v).doneIe = s.doneIe := rfl
@[simp] theorem State.setCount_errIe (s : State) (v : Word) : (s.setCount v).errIe = s.errIe := rfl
@[simp] theorem State.setCount_engOp (s : State) (v : Word) : (s.setCount v).engOp = s.engOp := rfl
@[simp] theorem State.setCount_engKey (s : State) (v : Word) : (s.setCount v).engKey = s.engKey := rfl
@[simp] theorem State.setCount_engIn (s : State) (v : Word) : (s.setCount v).engIn = s.engIn := rfl
@[simp] theorem State.setCount_rem (s : State) (v : Word) : (s.setCount v).rem = s.rem := rfl
@[simp] theorem State.setCount_host (s : State) (v : Word) : (s.setCount v).host = s.host := rfl
@[simp] theorem State.setCount_rdata (s : State) (v : Word) : (s.setCount v).rdata = s.rdata := rfl

@[simp] theorem State.setBits_inst (s : State) (v : Word) : (s.setBits v).inst = s.inst := rfl
@[simp] theorem State.setBits_key (s : State) (v : Word) : (s.setBits v).key = s.key := rfl
@[simp] theorem State.setBits_blk (s : State) (v : Word) : (s.setBits v).blk = s.blk := rfl
@[simp] theorem State.setBits_count (s : State) (v : Word) : (s.setBits v).count = s.count := rfl
@[simp] theorem State.setBits_bits (s : State) (v : Word) : (s.setBits v).bits = v := rfl
@[simp] theorem State.setBits_out (s : State) (v : Word) : (s.setBits v).out = s.out := rfl
@[simp] theorem State.setBits_busy (s : State) (v : Word) : (s.setBits v).busy = s.busy := rfl
@[simp] theorem State.setBits_done (s : State) (v : Word) : (s.setBits v).done = s.done := rfl
@[simp] theorem State.setBits_err (s : State) (v : Word) : (s.setBits v).err = s.err := rfl
@[simp] theorem State.setBits_errcode (s : State) (v : Word) : (s.setBits v).errcode = s.errcode := rfl
@[simp] theorem State.setBits_lastop (s : State) (v : Word) : (s.setBits v).lastop = s.lastop := rfl
@[simp] theorem State.setBits_doneIe (s : State) (v : Word) : (s.setBits v).doneIe = s.doneIe := rfl
@[simp] theorem State.setBits_errIe (s : State) (v : Word) : (s.setBits v).errIe = s.errIe := rfl
@[simp] theorem State.setBits_engOp (s : State) (v : Word) : (s.setBits v).engOp = s.engOp := rfl
@[simp] theorem State.setBits_engKey (s : State) (v : Word) : (s.setBits v).engKey = s.engKey := rfl
@[simp] theorem State.setBits_engIn (s : State) (v : Word) : (s.setBits v).engIn = s.engIn := rfl
@[simp] theorem State.setBits_rem (s : State) (v : Word) : (s.setBits v).rem = s.rem := rfl
@[simp] theorem State.setBits_host (s : State) (v : Word) : (s.setBits v).host = s.host := rfl
@[simp] theorem State.setBits_rdata (s : State) (v : Word) : (s.setBits v).rdata = s.rdata := rfl

@[simp] theorem State.setLastop_inst (s : State) (op : Byte) : (s.setLastop op).inst = s.inst := rfl
@[simp] theorem State.setLastop_key (s : State) (op : Byte) : (s.setLastop op).key = s.key := rfl
@[simp] theorem State.setLastop_blk (s : State) (op : Byte) : (s.setLastop op).blk = s.blk := rfl
@[simp] theorem State.setLastop_count (s : State) (op : Byte) : (s.setLastop op).count = s.count := rfl
@[simp] theorem State.setLastop_bits (s : State) (op : Byte) : (s.setLastop op).bits = s.bits := rfl
@[simp] theorem State.setLastop_out (s : State) (op : Byte) : (s.setLastop op).out = s.out := rfl
@[simp] theorem State.setLastop_busy (s : State) (op : Byte) : (s.setLastop op).busy = s.busy := rfl
@[simp] theorem State.setLastop_done (s : State) (op : Byte) : (s.setLastop op).done = s.done := rfl
@[simp] theorem State.setLastop_err (s : State) (op : Byte) : (s.setLastop op).err = s.err := rfl
@[simp] theorem State.setLastop_errcode (s : State) (op : Byte) : (s.setLastop op).errcode = s.errcode := rfl
@[simp] theorem State.setLastop_lastop (s : State) (op : Byte) : (s.setLastop op).lastop = op := rfl
@[simp] theorem State.setLastop_doneIe (s : State) (op : Byte) : (s.setLastop op).doneIe = s.doneIe := rfl
@[simp] theorem State.setLastop_errIe (s : State) (op : Byte) : (s.setLastop op).errIe = s.errIe := rfl
@[simp] theorem State.setLastop_engOp (s : State) (op : Byte) : (s.setLastop op).engOp = s.engOp := rfl
@[simp] theorem State.setLastop_engKey (s : State) (op : Byte) : (s.setLastop op).engKey = s.engKey := rfl
@[simp] theorem State.setLastop_engIn (s : State) (op : Byte) : (s.setLastop op).engIn = s.engIn := rfl
@[simp] theorem State.setLastop_rem (s : State) (op : Byte) : (s.setLastop op).rem = s.rem := rfl
@[simp] theorem State.setLastop_host (s : State) (op : Byte) : (s.setLastop op).host = s.host := rfl
@[simp] theorem State.setLastop_rdata (s : State) (op : Byte) : (s.setLastop op).rdata = s.rdata := rfl

@[simp] theorem State.setRdata_inst (s : State) (v : Option Word) : (s.setRdata v).inst = s.inst := rfl
@[simp] theorem State.setRdata_key (s : State) (v : Option Word) : (s.setRdata v).key = s.key := rfl
@[simp] theorem State.setRdata_blk (s : State) (v : Option Word) : (s.setRdata v).blk = s.blk := rfl
@[simp] theorem State.setRdata_count (s : State) (v : Option Word) : (s.setRdata v).count = s.count := rfl
@[simp] theorem State.setRdata_bits (s : State) (v : Option Word) : (s.setRdata v).bits = s.bits := rfl
@[simp] theorem State.setRdata_out (s : State) (v : Option Word) : (s.setRdata v).out = s.out := rfl
@[simp] theorem State.setRdata_busy (s : State) (v : Option Word) : (s.setRdata v).busy = s.busy := rfl
@[simp] theorem State.setRdata_done (s : State) (v : Option Word) : (s.setRdata v).done = s.done := rfl
@[simp] theorem State.setRdata_err (s : State) (v : Option Word) : (s.setRdata v).err = s.err := rfl
@[simp] theorem State.setRdata_errcode (s : State) (v : Option Word) : (s.setRdata v).errcode = s.errcode := rfl
@[simp] theorem State.setRdata_lastop (s : State) (v : Option Word) : (s.setRdata v).lastop = s.lastop := rfl
@[simp] theorem State.setRdata_doneIe (s : State) (v : Option Word) : (s.setRdata v).doneIe = s.doneIe := rfl
@[simp] theorem State.setRdata_errIe (s : State) (v : Option Word) : (s.setRdata v).errIe = s.errIe := rfl
@[simp] theorem State.setRdata_engOp (s : State) (v : Option Word) : (s.setRdata v).engOp = s.engOp := rfl
@[simp] theorem State.setRdata_engKey (s : State) (v : Option Word) : (s.setRdata v).engKey = s.engKey := rfl
@[simp] theorem State.setRdata_engIn (s : State) (v : Option Word) : (s.setRdata v).engIn = s.engIn := rfl
@[simp] theorem State.setRdata_rem (s : State) (v : Option Word) : (s.setRdata v).rem = s.rem := rfl
@[simp] theorem State.setRdata_host (s : State) (v : Option Word) : (s.setRdata v).host = s.host := rfl
@[simp] theorem State.setRdata_rdata (s : State) (v : Option Word) : (s.setRdata v).rdata = v := rfl

@[simp] theorem State.setHost_inst (s : State) (h : List PortInput) : (s.setHost h).inst = s.inst := rfl
@[simp] theorem State.setHost_key (s : State) (h : List PortInput) : (s.setHost h).key = s.key := rfl
@[simp] theorem State.setHost_blk (s : State) (h : List PortInput) : (s.setHost h).blk = s.blk := rfl
@[simp] theorem State.setHost_count (s : State) (h : List PortInput) : (s.setHost h).count = s.count := rfl
@[simp] theorem State.setHost_bits (s : State) (h : List PortInput) : (s.setHost h).bits = s.bits := rfl
@[simp] theorem State.setHost_out (s : State) (h : List PortInput) : (s.setHost h).out = s.out := rfl
@[simp] theorem State.setHost_busy (s : State) (h : List PortInput) : (s.setHost h).busy = s.busy := rfl
@[simp] theorem State.setHost_done (s : State) (h : List PortInput) : (s.setHost h).done = s.done := rfl
@[simp] theorem State.setHost_err (s : State) (h : List PortInput) : (s.setHost h).err = s.err := rfl
@[simp] theorem State.setHost_errcode (s : State) (h : List PortInput) : (s.setHost h).errcode = s.errcode := rfl
@[simp] theorem State.setHost_lastop (s : State) (h : List PortInput) : (s.setHost h).lastop = s.lastop := rfl
@[simp] theorem State.setHost_doneIe (s : State) (h : List PortInput) : (s.setHost h).doneIe = s.doneIe := rfl
@[simp] theorem State.setHost_errIe (s : State) (h : List PortInput) : (s.setHost h).errIe = s.errIe := rfl
@[simp] theorem State.setHost_engOp (s : State) (h : List PortInput) : (s.setHost h).engOp = s.engOp := rfl
@[simp] theorem State.setHost_engKey (s : State) (h : List PortInput) : (s.setHost h).engKey = s.engKey := rfl
@[simp] theorem State.setHost_engIn (s : State) (h : List PortInput) : (s.setHost h).engIn = s.engIn := rfl
@[simp] theorem State.setHost_rem (s : State) (h : List PortInput) : (s.setHost h).rem = s.rem := rfl
@[simp] theorem State.setHost_host (s : State) (h : List PortInput) : (s.setHost h).host = h := rfl
@[simp] theorem State.setHost_rdata (s : State) (h : List PortInput) : (s.setHost h).rdata = s.rdata := rfl

@[simp] theorem State.setRem_inst (s : State) (n : Nat) : (s.setRem n).inst = s.inst := rfl
@[simp] theorem State.setRem_key (s : State) (n : Nat) : (s.setRem n).key = s.key := rfl
@[simp] theorem State.setRem_blk (s : State) (n : Nat) : (s.setRem n).blk = s.blk := rfl
@[simp] theorem State.setRem_count (s : State) (n : Nat) : (s.setRem n).count = s.count := rfl
@[simp] theorem State.setRem_bits (s : State) (n : Nat) : (s.setRem n).bits = s.bits := rfl
@[simp] theorem State.setRem_out (s : State) (n : Nat) : (s.setRem n).out = s.out := rfl
@[simp] theorem State.setRem_busy (s : State) (n : Nat) : (s.setRem n).busy = s.busy := rfl
@[simp] theorem State.setRem_done (s : State) (n : Nat) : (s.setRem n).done = s.done := rfl
@[simp] theorem State.setRem_err (s : State) (n : Nat) : (s.setRem n).err = s.err := rfl
@[simp] theorem State.setRem_errcode (s : State) (n : Nat) : (s.setRem n).errcode = s.errcode := rfl
@[simp] theorem State.setRem_lastop (s : State) (n : Nat) : (s.setRem n).lastop = s.lastop := rfl
@[simp] theorem State.setRem_doneIe (s : State) (n : Nat) : (s.setRem n).doneIe = s.doneIe := rfl
@[simp] theorem State.setRem_errIe (s : State) (n : Nat) : (s.setRem n).errIe = s.errIe := rfl
@[simp] theorem State.setRem_engOp (s : State) (n : Nat) : (s.setRem n).engOp = s.engOp := rfl
@[simp] theorem State.setRem_engKey (s : State) (n : Nat) : (s.setRem n).engKey = s.engKey := rfl
@[simp] theorem State.setRem_engIn (s : State) (n : Nat) : (s.setRem n).engIn = s.engIn := rfl
@[simp] theorem State.setRem_rem (s : State) (n : Nat) : (s.setRem n).rem = n := rfl
@[simp] theorem State.setRem_host (s : State) (n : Nat) : (s.setRem n).host = s.host := rfl
@[simp] theorem State.setRem_rdata (s : State) (n : Nat) : (s.setRem n).rdata = s.rdata := rfl

@[simp] theorem State.issue_inst (s : State) (op : Byte) (b : Quad) : (s.issue op b).inst = s.inst := rfl
@[simp] theorem State.issue_key (s : State) (op : Byte) (b : Quad) : (s.issue op b).key = s.key := rfl
@[simp] theorem State.issue_blk (s : State) (op : Byte) (b : Quad) : (s.issue op b).blk = s.blk := rfl
@[simp] theorem State.issue_count (s : State) (op : Byte) (b : Quad) : (s.issue op b).count = s.count := rfl
@[simp] theorem State.issue_bits (s : State) (op : Byte) (b : Quad) : (s.issue op b).bits = s.bits := rfl
@[simp] theorem State.issue_out (s : State) (op : Byte) (b : Quad) : (s.issue op b).out = s.out := rfl
@[simp] theorem State.issue_busy (s : State) (op : Byte) (b : Quad) : (s.issue op b).busy = true := rfl
@[simp] theorem State.issue_done (s : State) (op : Byte) (b : Quad) : (s.issue op b).done = s.done := rfl
@[simp] theorem State.issue_err (s : State) (op : Byte) (b : Quad) : (s.issue op b).err = s.err := rfl
@[simp] theorem State.issue_errcode (s : State) (op : Byte) (b : Quad) : (s.issue op b).errcode = s.errcode := rfl
@[simp] theorem State.issue_lastop (s : State) (op : Byte) (b : Quad) : (s.issue op b).lastop = op := rfl
@[simp] theorem State.issue_doneIe (s : State) (op : Byte) (b : Quad) : (s.issue op b).doneIe = s.doneIe := rfl
@[simp] theorem State.issue_errIe (s : State) (op : Byte) (b : Quad) : (s.issue op b).errIe = s.errIe := rfl
@[simp] theorem State.issue_engOp (s : State) (op : Byte) (b : Quad) : (s.issue op b).engOp = op := rfl
@[simp] theorem State.issue_engKey (s : State) (op : Byte) (b : Quad) : (s.issue op b).engKey = s.key := rfl
@[simp] theorem State.issue_engIn (s : State) (op : Byte) (b : Quad) : (s.issue op b).engIn = b := rfl
@[simp] theorem State.issue_rem (s : State) (op : Byte) (b : Quad) : (s.issue op b).rem = s.inst.ccLatency := rfl
@[simp] theorem State.issue_host (s : State) (op : Byte) (b : Quad) : (s.issue op b).host = s.host := rfl
@[simp] theorem State.issue_rdata (s : State) (op : Byte) (b : Quad) : (s.issue op b).rdata = s.rdata := rfl

@[simp] theorem State.complete_inst (s : State) (r : Quad) : (s.complete r).inst = s.inst := rfl
@[simp] theorem State.complete_key (s : State) (r : Quad) : (s.complete r).key = completionKey s.engOp r s.key := rfl
@[simp] theorem State.complete_blk (s : State) (r : Quad) : (s.complete r).blk = s.blk := rfl
@[simp] theorem State.complete_count (s : State) (r : Quad) : (s.complete r).count = s.count := rfl
@[simp] theorem State.complete_bits (s : State) (r : Quad) : (s.complete r).bits = s.bits := rfl
@[simp] theorem State.complete_out (s : State) (r : Quad) : (s.complete r).out = r := rfl
@[simp] theorem State.complete_busy (s : State) (r : Quad) : (s.complete r).busy = false := rfl
@[simp] theorem State.complete_done (s : State) (r : Quad) : (s.complete r).done = true := rfl
@[simp] theorem State.complete_err (s : State) (r : Quad) : (s.complete r).err = s.err := rfl
@[simp] theorem State.complete_errcode (s : State) (r : Quad) : (s.complete r).errcode = s.errcode := rfl
@[simp] theorem State.complete_lastop (s : State) (r : Quad) : (s.complete r).lastop = s.lastop := rfl
@[simp] theorem State.complete_doneIe (s : State) (r : Quad) : (s.complete r).doneIe = s.doneIe := rfl
@[simp] theorem State.complete_errIe (s : State) (r : Quad) : (s.complete r).errIe = s.errIe := rfl
@[simp] theorem State.complete_engOp (s : State) (r : Quad) : (s.complete r).engOp = s.engOp := rfl
@[simp] theorem State.complete_engKey (s : State) (r : Quad) : (s.complete r).engKey = s.engKey := rfl
@[simp] theorem State.complete_engIn (s : State) (r : Quad) : (s.complete r).engIn = s.engIn := rfl
@[simp] theorem State.complete_rem (s : State) (r : Quad) : (s.complete r).rem = 0 := rfl
@[simp] theorem State.complete_host (s : State) (r : Quad) : (s.complete r).host = s.host := rfl
@[simp] theorem State.complete_rdata (s : State) (r : Quad) : (s.complete r).rdata = s.rdata := rfl

end Sys2Proof.Machine
end

