-- ==== Sys2Proof/Laws/Ops.lean ====
section
/-! SUPPORT. What each shared operation of the machine can do. -/

namespace Sys2Proof.Machine

/-! The register map. -/

theorem quadGet_quadSet_self (q : Quad) (i : Fin 4) (v : Word) : quadGet (quadSet q i v) i = v := by
  fin_cases i <;> rfl

theorem quadGet_quadSet_ne (q : Quad) {i j : Fin 4} (v : Word) (h : j ≠ i) :
    quadGet (quadSet q i v) j = quadGet q j := by
  fin_cases i <;> fin_cases j <;> first | rfl | exact absurd rfl h

theorem quadSet_quadSet (q : Quad) (i : Fin 4) (u v : Word) :
    quadSet (quadSet q i u) i v = quadSet q i v := by
  fin_cases i <;> rfl

theorem regAt_key (i : Fin 4) : regAt (BitVec.ofNat 6 i.val) = .key i := by
  fin_cases i <;> rfl

theorem regAt_blk (i : Fin 4) : regAt (BitVec.ofNat 6 (0x04 + i.val)) = .blk i := by
  fin_cases i <;> rfl

theorem regAt_out (i : Fin 4) : regAt (BitVec.ofNat 6 (0x0C + i.val)) = .out i := by
  fin_cases i <;> rfl

theorem regAt_out32 (j : Fin 8) : regAt (BitVec.ofNat 6 (0x10 + j.val)) = .out32 j := by
  fin_cases j <;> rfl

theorem regAt_eq_cmd_iff {a : Addr} : regAt a = .cmd ↔ a = 0x18#6 := by
  revert a; decide

theorem regAt_eq_status_iff {a : Addr} : regAt a = .status ↔ a = 0x19#6 := by
  revert a; decide

theorem regAt_eq_ctrl_iff {a : Addr} : regAt a = .ctrl ↔ a = 0x1A#6 := by
  revert a; decide

theorem regAt_eq_count_iff {a : Addr} : regAt a = .count ↔ a = 0x08#6 := by
  revert a; decide

theorem regAt_eq_bits_iff {a : Addr} : regAt a = .bits ↔ a = 0x09#6 := by
  revert a; decide

theorem regAt_eq_key_iff {a : Addr} {i : Fin 4} :
    regAt a = .key i ↔ a = BitVec.ofNat 6 i.val := by
  revert a i; decide

theorem regAt_eq_blk_iff {a : Addr} {i : Fin 4} :
    regAt a = .blk i ↔ a = BitVec.ofNat 6 (0x04 + i.val) := by
  revert a i; decide

/-- The addresses whose write does nothing (R31). -/
theorem regAt_read_only {a : Addr} (h : (0x0A ≤ a.toNat ∧ a.toNat ≤ 0x17) ∨ 0x1B ≤ a.toNat) :
    (∃ i, regAt a = .out i) ∨ (∃ j, regAt a = .out32 j) ∨ regAt a = .id ∨ regAt a = .reserved := by
  revert a; decide

/-! Rejection (R77): only `ERR` and `ERRCODE` can change. -/

theorem State.cmdError_of_err {s : State} (h : s.err = true) (c : ErrCode) : s.cmdError c = s := by
  simp [State.cmdError, h]

theorem State.cmdError_of_clear {s : State} (h : s.err = false) (c : ErrCode) :
    s.cmdError c = { s with err := true, errcode := c } := by
  simp [State.cmdError, h]

@[simp] theorem State.cmdError_err (s : State) (c : ErrCode) : (s.cmdError c).err = true := by
  unfold State.cmdError; split <;> simp_all

theorem State.cmdError_errcode (s : State) (c : ErrCode) :
    (s.cmdError c).errcode = if s.err then s.errcode else c := by
  unfold State.cmdError; split <;> simp_all

@[simp] theorem State.cmdError_inst (s : State) (c : ErrCode) : (s.cmdError c).inst = s.inst := by
  unfold State.cmdError; split <;> rfl

@[simp] theorem State.cmdError_key (s : State) (c : ErrCode) : (s.cmdError c).key = s.key := by
  unfold State.cmdError; split <;> rfl

@[simp] theorem State.cmdError_blk (s : State) (c : ErrCode) : (s.cmdError c).blk = s.blk := by
  unfold State.cmdError; split <;> rfl

@[simp] theorem State.cmdError_count (s : State) (c : ErrCode) : (s.cmdError c).count = s.count := by
  unfold State.cmdError; split <;> rfl

@[simp] theorem State.cmdError_bits (s : State) (c : ErrCode) : (s.cmdError c).bits = s.bits := by
  unfold State.cmdError; split <;> rfl

@[simp] theorem State.cmdError_out (s : State) (c : ErrCode) : (s.cmdError c).out = s.out := by
  unfold State.cmdError; split <;> rfl

@[simp] theorem State.cmdError_busy (s : State) (c : ErrCode) : (s.cmdError c).busy = s.busy := by
  unfold State.cmdError; split <;> rfl

@[simp] theorem State.cmdError_done (s : State) (c : ErrCode) : (s.cmdError c).done = s.done := by
  unfold State.cmdError; split <;> rfl

@[simp] theorem State.cmdError_lastop (s : State) (c : ErrCode) : (s.cmdError c).lastop = s.lastop := by
  unfold State.cmdError; split <;> rfl

@[simp] theorem State.cmdError_doneIe (s : State) (c : ErrCode) : (s.cmdError c).doneIe = s.doneIe := by
  unfold State.cmdError; split <;> rfl

@[simp] theorem State.cmdError_errIe (s : State) (c : ErrCode) : (s.cmdError c).errIe = s.errIe := by
  unfold State.cmdError; split <;> rfl

@[simp] theorem State.cmdError_engOp (s : State) (c : ErrCode) : (s.cmdError c).engOp = s.engOp := by
  unfold State.cmdError; split <;> rfl

@[simp] theorem State.cmdError_engKey (s : State) (c : ErrCode) : (s.cmdError c).engKey = s.engKey := by
  unfold State.cmdError; split <;> rfl

@[simp] theorem State.cmdError_engIn (s : State) (c : ErrCode) : (s.cmdError c).engIn = s.engIn := by
  unfold State.cmdError; split <;> rfl

@[simp] theorem State.cmdError_rem (s : State) (c : ErrCode) : (s.cmdError c).rem = s.rem := by
  unfold State.cmdError; split <;> rfl

@[simp] theorem State.cmdError_host (s : State) (c : ErrCode) : (s.cmdError c).host = s.host := by
  unfold State.cmdError; split <;> rfl

@[simp] theorem State.cmdError_rdata (s : State) (c : ErrCode) : (s.cmdError c).rdata = s.rdata := by
  unfold State.cmdError; split <;> rfl

/-! Acceptance (R76). -/

theorem State.whenIdle_busy {s : State} (h : s.busy = true) (f : State → State) :
    s.whenIdle f = s.cmdError .busy := by
  simp [State.whenIdle, h]

theorem State.whenIdle_idle {s : State} (h : s.busy = false) (f : State → State) :
    s.whenIdle f = f s := by
  simp [State.whenIdle, h]

theorem State.whenArgs_ok {s : State} {ok : Bool} (h : ok = true) (f : State → State) :
    s.whenArgs ok f = f s := by
  simp [State.whenArgs, h]

theorem State.whenArgs_bad {s : State} {ok : Bool} (h : ok = false) (f : State → State) :
    s.whenArgs ok f = s.cmdError .invalidArg := by
  simp [State.whenArgs, h]

/-! The engine phase (R60). -/

theorem State.enginePhase_idle {s : State} (h : s.busy = false) : s.enginePhase = s := by
  simp [State.enginePhase, h]

theorem State.enginePhase_running {s : State} (h : s.busy = true) (hr : s.rem - 1 ≠ 0) :
    s.enginePhase = s.setRem (s.rem - 1) := by
  simp [State.enginePhase, h, hr]

theorem State.enginePhase_last {s : State} (h : s.busy = true) (hr : s.rem - 1 = 0) :
    s.enginePhase = s.complete (CipherCore.encrypt s.engKey s.engIn) := by
  simp [State.enginePhase, h, hr]

/-- Everything phase (a) can do. -/
theorem State.enginePhase_cases (s : State) :
    (s.busy = false ∧ s.enginePhase = s) ∨
      (s.busy = true ∧ s.rem - 1 ≠ 0 ∧ s.enginePhase = s.setRem (s.rem - 1)) ∨
      (s.busy = true ∧ s.rem - 1 = 0 ∧
        s.enginePhase = s.complete (CipherCore.encrypt s.engKey s.engIn)) := by
  cases hb : s.busy
  · exact .inl ⟨rfl, State.enginePhase_idle hb⟩
  · by_cases hr : s.rem - 1 = 0
    · exact .inr (.inr ⟨rfl, hr, State.enginePhase_last hb hr⟩)
    · exact .inr (.inl ⟨rfl, hr, State.enginePhase_running hb hr⟩)

/-! The start of a cycle changes only the model's own fields. -/

@[simp] theorem State.beginCycle_inst (s : State) : s.beginCycle.inst = s.inst := rfl

@[simp] theorem State.beginCycle_key (s : State) : s.beginCycle.key = s.key := rfl

@[simp] theorem State.beginCycle_blk (s : State) : s.beginCycle.blk = s.blk := rfl

@[simp] theorem State.beginCycle_count (s : State) : s.beginCycle.count = s.count := rfl

@[simp] theorem State.beginCycle_bits (s : State) : s.beginCycle.bits = s.bits := rfl

@[simp] theorem State.beginCycle_out (s : State) : s.beginCycle.out = s.out := rfl

@[simp] theorem State.beginCycle_busy (s : State) : s.beginCycle.busy = s.busy := rfl

@[simp] theorem State.beginCycle_done (s : State) : s.beginCycle.done = s.done := rfl

@[simp] theorem State.beginCycle_err (s : State) : s.beginCycle.err = s.err := rfl

@[simp] theorem State.beginCycle_errcode (s : State) : s.beginCycle.errcode = s.errcode := rfl

@[simp] theorem State.beginCycle_lastop (s : State) : s.beginCycle.lastop = s.lastop := rfl

@[simp] theorem State.beginCycle_doneIe (s : State) : s.beginCycle.doneIe = s.doneIe := rfl

@[simp] theorem State.beginCycle_errIe (s : State) : s.beginCycle.errIe = s.errIe := rfl

@[simp] theorem State.beginCycle_engOp (s : State) : s.beginCycle.engOp = s.engOp := rfl

@[simp] theorem State.beginCycle_engKey (s : State) : s.beginCycle.engKey = s.engKey := rfl

@[simp] theorem State.beginCycle_engIn (s : State) : s.beginCycle.engIn = s.engIn := rfl

@[simp] theorem State.beginCycle_rem (s : State) : s.beginCycle.rem = s.rem := rfl

@[simp] theorem State.beginCycle_host (s : State) : s.beginCycle.host = s.host.tail := rfl

@[simp] theorem State.beginCycle_rdata (s : State) : s.beginCycle.rdata = none := rfl

/-! Phase (a) never changes these. -/

@[simp] theorem State.enginePhase_inst (s : State) : s.enginePhase.inst = s.inst := by
  obtain ⟨-, h⟩ | ⟨-, -, h⟩ | ⟨-, -, h⟩ := s.enginePhase_cases <;> rw [h] <;> rfl

@[simp] theorem State.enginePhase_blk (s : State) : s.enginePhase.blk = s.blk := by
  obtain ⟨-, h⟩ | ⟨-, -, h⟩ | ⟨-, -, h⟩ := s.enginePhase_cases <;> rw [h] <;> rfl

@[simp] theorem State.enginePhase_count (s : State) : s.enginePhase.count = s.count := by
  obtain ⟨-, h⟩ | ⟨-, -, h⟩ | ⟨-, -, h⟩ := s.enginePhase_cases <;> rw [h] <;> rfl

@[simp] theorem State.enginePhase_bits (s : State) : s.enginePhase.bits = s.bits := by
  obtain ⟨-, h⟩ | ⟨-, -, h⟩ | ⟨-, -, h⟩ := s.enginePhase_cases <;> rw [h] <;> rfl

@[simp] theorem State.enginePhase_err (s : State) : s.enginePhase.err = s.err := by
  obtain ⟨-, h⟩ | ⟨-, -, h⟩ | ⟨-, -, h⟩ := s.enginePhase_cases <;> rw [h] <;> rfl

@[simp] theorem State.enginePhase_errcode (s : State) : s.enginePhase.errcode = s.errcode := by
  obtain ⟨-, h⟩ | ⟨-, -, h⟩ | ⟨-, -, h⟩ := s.enginePhase_cases <;> rw [h] <;> rfl

@[simp] theorem State.enginePhase_lastop (s : State) : s.enginePhase.lastop = s.lastop := by
  obtain ⟨-, h⟩ | ⟨-, -, h⟩ | ⟨-, -, h⟩ := s.enginePhase_cases <;> rw [h] <;> rfl

@[simp] theorem State.enginePhase_doneIe (s : State) : s.enginePhase.doneIe = s.doneIe := by
  obtain ⟨-, h⟩ | ⟨-, -, h⟩ | ⟨-, -, h⟩ := s.enginePhase_cases <;> rw [h] <;> rfl

@[simp] theorem State.enginePhase_errIe (s : State) : s.enginePhase.errIe = s.errIe := by
  obtain ⟨-, h⟩ | ⟨-, -, h⟩ | ⟨-, -, h⟩ := s.enginePhase_cases <;> rw [h] <;> rfl

@[simp] theorem State.enginePhase_engOp (s : State) : s.enginePhase.engOp = s.engOp := by
  obtain ⟨-, h⟩ | ⟨-, -, h⟩ | ⟨-, -, h⟩ := s.enginePhase_cases <;> rw [h] <;> rfl

@[simp] theorem State.enginePhase_engKey (s : State) : s.enginePhase.engKey = s.engKey := by
  obtain ⟨-, h⟩ | ⟨-, -, h⟩ | ⟨-, -, h⟩ := s.enginePhase_cases <;> rw [h] <;> rfl

@[simp] theorem State.enginePhase_engIn (s : State) : s.enginePhase.engIn = s.engIn := by
  obtain ⟨-, h⟩ | ⟨-, -, h⟩ | ⟨-, -, h⟩ := s.enginePhase_cases <;> rw [h] <;> rfl

@[simp] theorem State.enginePhase_host (s : State) : s.enginePhase.host = s.host := by
  obtain ⟨-, h⟩ | ⟨-, -, h⟩ | ⟨-, -, h⟩ := s.enginePhase_cases <;> rw [h] <;> rfl

@[simp] theorem State.enginePhase_rdata (s : State) : s.enginePhase.rdata = s.rdata := by
  obtain ⟨-, h⟩ | ⟨-, -, h⟩ | ⟨-, -, h⟩ := s.enginePhase_cases <;> rw [h] <;> rfl

/-! The write effect of a transaction (R34). -/

theorem State.writeStatus_eq (s : State) (v : Word) :
    s.writeStatus v =
      { s with
        done := s.done && !v.getLsbD 1
        err := s.err && !v.getLsbD 2
        errcode := if v.getLsbD 2 then .none else s.errcode } := by
  unfold State.writeStatus
  cases v.getLsbD 1 <;> cases v.getLsbD 2 <;> simp [State.clearDone, State.clearErr]

/-- A register other than the one written reads as before. -/
theorem readReg_writeReg_of_ne (s : State) {r : RegName} {a : Addr} (v : Word) (h : regAt a ≠ r) :
    readReg (s.writeReg r v) a = readReg s a := by
  unfold readReg
  cases r <;> cases ha : regAt a <;>
    simp_all [State.writeReg, statusWord, ctrlWord, State.writeStatus_eq]
  · exact quadGet_quadSet_ne _ _ h
  · exact quadGet_quadSet_ne _ _ h

/-- A data register reads as what was written to it. -/
theorem readReg_writeReg_data (s : State) {a : Addr} (v : Word) (h : a.toNat ≤ 0x09) :
    readReg (s.writeReg (regAt a) v) a = v := by
  have hr : (∃ i, regAt a = .key i) ∨ (∃ i, regAt a = .blk i) ∨ regAt a = .count ∨
      regAt a = .bits := by
    revert a; decide
  unfold readReg
  obtain ⟨i, e⟩ | ⟨i, e⟩ | e | e := hr <;> simp [e, State.writeReg, quadGet_quadSet_self]

/-- Everything a register write can do. -/
theorem State.writeReg_cases (s : State) (r : RegName) (v : Word) :
    s.writeReg r v = s ∨ (∃ q, s.writeReg r v = s.setKey q) ∨ (∃ q, s.writeReg r v = s.setBlk q) ∨
      s.writeReg r v = s.setCount v ∨ s.writeReg r v = s.setBits v ∨
      s.writeReg r v = s.writeStatus v ∨ s.writeReg r v = s.setCtrl v := by
  cases r <;> simp [State.writeReg]

@[simp] theorem State.writeReg_inst (s : State) (r : RegName) (v : Word) :
    (s.writeReg r v).inst = s.inst := by
  cases r <;> simp [State.writeReg, State.writeStatus_eq]

@[simp] theorem State.writeReg_out (s : State) (r : RegName) (v : Word) :
    (s.writeReg r v).out = s.out := by
  cases r <;> simp [State.writeReg, State.writeStatus_eq]

@[simp] theorem State.writeReg_busy (s : State) (r : RegName) (v : Word) :
    (s.writeReg r v).busy = s.busy := by
  cases r <;> simp [State.writeReg, State.writeStatus_eq]

@[simp] theorem State.writeReg_lastop (s : State) (r : RegName) (v : Word) :
    (s.writeReg r v).lastop = s.lastop := by
  cases r <;> simp [State.writeReg, State.writeStatus_eq]

@[simp] theorem State.writeReg_engOp (s : State) (r : RegName) (v : Word) :
    (s.writeReg r v).engOp = s.engOp := by
  cases r <;> simp [State.writeReg, State.writeStatus_eq]

@[simp] theorem State.writeReg_engKey (s : State) (r : RegName) (v : Word) :
    (s.writeReg r v).engKey = s.engKey := by
  cases r <;> simp [State.writeReg, State.writeStatus_eq]

@[simp] theorem State.writeReg_engIn (s : State) (r : RegName) (v : Word) :
    (s.writeReg r v).engIn = s.engIn := by
  cases r <;> simp [State.writeReg, State.writeStatus_eq]

@[simp] theorem State.writeReg_rem (s : State) (r : RegName) (v : Word) :
    (s.writeReg r v).rem = s.rem := by
  cases r <;> simp [State.writeReg, State.writeStatus_eq]

@[simp] theorem State.writeReg_host (s : State) (r : RegName) (v : Word) :
    (s.writeReg r v).host = s.host := by
  cases r <;> simp [State.writeReg, State.writeStatus_eq]

@[simp] theorem State.writeReg_rdata (s : State) (r : RegName) (v : Word) :
    (s.writeReg r v).rdata = s.rdata := by
  cases r <;> simp [State.writeReg, State.writeStatus_eq]

end Sys2Proof.Machine
end

