-- ==== Sys2Proof/Laws/PerInstr.lean ====
section
/-! SUPPORT. Per-instruction laws: the encoding of a command carries its opcode and a zero `RSV` field (30_encoding.md R42, R45). -/

/-- If the instruction is a command, the word its transaction writes has its opcode in `OP` and 0 in `RSV`. -/
def Sys2Proof.Laws.CommandFields.Statement (i : Sys2Proof.Instr) : Prop :=
  ∀ (op : Sys2Proof.CmdOp) (imm : Sys2Proof.Half) (b a : Sys2Proof.Byte), i = op.instr imm b a →
    Sys2Proof.fieldOp (Sys2Proof.encode i).wdata = op.code ∧
      Sys2Proof.fieldRsv (Sys2Proof.encode i).wdata = 0#8

open Sys2Proof

theorem Sys2Proof.Laws.CommandFields.regRead (addr : Addr) : Statement (.regRead addr) := by
  intro op imm b a h
  cases op <;> cases h

theorem Sys2Proof.Laws.CommandFields.regWrite (addr : Addr) (wdata : Word) :
    Statement (.regWrite addr wdata) := by
  intro op imm b a h
  cases op <;> cases h

theorem Sys2Proof.Laws.CommandFields.nop : Statement .nop := by
  intro op imm b a h
  cases op <;> cases h
  simp [encode, cmdTxn]

theorem Sys2Proof.Laws.CommandFields.encrypt : Statement .encrypt := by
  intro op imm b a h
  cases op <;> cases h
  simp [encode, cmdTxn]

theorem Sys2Proof.Laws.CommandFields.mash : Statement .mash := by
  intro op imm b a h
  cases op <;> cases h
  simp [encode, cmdTxn]

theorem Sys2Proof.Laws.CommandFields.rekey : Statement .rekey := by
  intro op imm b a h
  cases op <;> cases h
  simp [encode, cmdTxn]

theorem Sys2Proof.Laws.CommandFields.accClear : Statement .accClear := by
  intro op imm b a h
  cases op <;> cases h
  simp [encode, cmdTxn]

theorem Sys2Proof.Laws.CommandFields.accSetbit (a : Byte) : Statement (.accSetbit a) := by
  intro op imm b a h
  cases op <;> cases h
  simp [encode, cmdTxn]

theorem Sys2Proof.Laws.CommandFields.accInsert (imm : Half) (b a : Byte) :
    Statement (.accInsert imm b a) := by
  intro op imm b a h
  cases op <;> cases h
  simp [encode, cmdTxn]

theorem Sys2Proof.Laws.CommandFields.accCarry (imm : Half) (b a : Byte) :
    Statement (.accCarry imm b a) := by
  intro op imm b a h
  cases op <;> cases h
  simp [encode, cmdTxn]

theorem Sys2Proof.Laws.CommandFields.cntInc : Statement .cntInc := by
  intro op imm b a h
  cases op <;> cases h
  simp [encode, cmdTxn]
end

