-- ==== Sys2Proof/Laws/Step.lean ====
section
/-! SUPPORT. What an instruction and a step can do. -/

namespace Sys2Proof.Machine

/-- Everything the transaction phase can do to the state of the block. -/
inductive Effect (s : State) : State → Prop
  /-- A read (R33), or nothing. -/
  | read (v : Option Word) : Effect s (s.setRdata v)
  /-- A register write (R34). -/
  | write (r : RegName) (v : Word) : Effect s (s.writeReg r v)
  /-- A rejected command (R77). -/
  | rejected (c : ErrCode) (hc : c ≠ .none) : Effect s (s.cmdError c)
  /-- An accepted immediate command (R73). -/
  | immediate (op : CmdOp) (count bits : Word) (idle : s.busy = false) :
      Effect s (((s.setCount count).setBits bits).setLastop op.code)
  /-- An accepted engine command (R59). -/
  | issued (op : Byte) (b : Quad) (idle : s.busy = false) (hop : isEngineOp op)
      (hb : op ≠ CmdOp.encrypt.code → b.w2 = 0#64 ∧ b.w3 = 0#64) : Effect s (s.issue op b)

theorem Effect.whenIdle {s : State} {f : State → State} (h : s.busy = false → Effect s (f s)) :
    Effect s (s.whenIdle f) := by
  cases hb : s.busy
  · rw [State.whenIdle_idle hb]
    exact h hb
  · rw [State.whenIdle_busy hb]
    exact .rejected .busy (by decide)

theorem Effect.whenArgs {s : State} {ok : Bool} {f : State → State} (h : ok = true → Effect s (f s)) :
    Effect s (s.whenArgs ok f) := by
  cases ok
  · exact .rejected .invalidArg (by decide)
  · exact h rfl

/-- A write to an address other than `CMD` is its register's write effect. -/
theorem exec_regWrite {a : Addr} (h : a ≠ 0x18#6) (v : Word) (s : State) :
    exec (.regWrite a v) s = .next (s.writeReg (regAt a) v) := by
  simp only [exec, execRegWrite]
  split
  · exact absurd (regAt_eq_cmd_iff.mp ‹_›) h
  · rfl

/-- A write to `CMD` is a command. -/
theorem exec_regWrite_cmd (v : Word) (s : State) : exec (.regWrite 0x18#6 v) s = command v s := rfl

/-- Executing an opcode with its fields is executing its instruction. -/
theorem runCmd_eq_exec (op : CmdOp) (imm : Half) (b a : Byte) (s : State) :
    runCmd op imm b a s = exec (op.instr imm b a) s := by
  cases op <;> rfl

/-- Executing a command answers a next state, by one of the effects. -/
theorem runCmd_effect (op : CmdOp) (imm : Half) (b a : Byte) (s : State) :
    ∃ t, runCmd op imm b a s = .next t ∧ Effect s t := by
  cases op with
  | nop => exact ⟨_, rfl, .whenIdle fun h => .immediate .nop s.count s.bits h⟩
  | encrypt =>
    exact ⟨_, rfl, .whenIdle fun h => .issued _ _ h (.inl rfl) fun n => absurd rfl n⟩
  | mash =>
    exact ⟨_, rfl, .whenIdle fun h => .issued _ _ h (.inr (.inl rfl)) fun _ => ⟨rfl, rfl⟩⟩
  | rekey =>
    exact ⟨_, rfl, .whenIdle fun h => .issued _ _ h (.inr (.inr rfl)) fun _ => ⟨rfl, rfl⟩⟩
  | accClear => exact ⟨_, rfl, .whenIdle fun h => .immediate .accClear _ _ h⟩
  | accSetbit =>
    exact ⟨_, rfl, .whenIdle fun h => .whenArgs fun _ => .immediate .accSetbit s.count _ h⟩
  | accInsert =>
    exact ⟨_, rfl, .whenIdle fun h => .whenArgs fun _ => .immediate .accInsert s.count _ h⟩
  | accCarry =>
    exact ⟨_, rfl, .whenIdle fun h => .whenArgs fun _ => .immediate .accCarry s.count _ h⟩
  | cntInc => exact ⟨_, rfl, .whenIdle fun h => .immediate .cntInc (s.count + 1#64) s.bits h⟩

/-- A write to `CMD` answers a next state, by one of the effects (R76). -/
theorem command_effect (v : Word) (s : State) : ∃ t, command v s = .next t ∧ Effect s t := by
  unfold command
  split
  · exact ⟨_, rfl, .rejected .busy (by decide)⟩
  · split
    · rename_i c h
      refine ⟨_, rfl, .rejected c ?_⟩
      obtain ⟨rfl, -⟩ | ⟨rfl, -⟩ := decodeOp_error_cases h <;> decide
    · exact runCmd_effect _ _ _ _ _

/-- Every instruction answers a next state, by one of the effects. -/
theorem exec_effect (i : Instr) (s : State) : ∃ t, exec i s = .next t ∧ Effect s t := by
  cases i with
  | regRead addr => exact ⟨_, rfl, .read _⟩
  | regWrite addr v =>
    simp only [exec, execRegWrite]
    split
    · exact command_effect v s
    · exact ⟨_, rfl, .write _ v⟩
  | nop => exact runCmd_effect .nop 0 0 0 s
  | encrypt => exact runCmd_effect .encrypt 0 0 0 s
  | mash => exact runCmd_effect .mash 0 0 0 s
  | rekey => exact runCmd_effect .rekey 0 0 0 s
  | accClear => exact runCmd_effect .accClear 0 0 0 s
  | accSetbit a => exact runCmd_effect .accSetbit 0 0 a s
  | accInsert imm b a => exact runCmd_effect .accInsert imm b a s
  | accCarry imm b a => exact runCmd_effect .accCarry imm b a s
  | cntInc => exact runCmd_effect .cntInc 0 0 0 s

/-- Everything a step can do: a reset cycle, or phase (a) and then one effect. -/
theorem step_cases (s : State) :
    (s.input.rst = true ∧ step s = .next (s.beginCycle.resetCycle s.input.txn)) ∨
      (s.input.rst = false ∧
        ∃ t, step s = .next t ∧ Effect s.beginCycle.enginePhase t ∧
          (s.input.txn = none → t = s.beginCycle.enginePhase) ∧
          ∀ x, s.input.txn = some x → exec (decodeBus x) s.beginCycle.enginePhase = .next t) := by
  unfold step cycle
  cases hr : s.input.rst
  · refine .inr ⟨rfl, ?_⟩
    simp only [Bool.false_eq_true, if_false]
    cases ht : s.input.txn with
    | none => exact ⟨_, rfl, .read (State.rdata _), fun _ => rfl, nofun⟩
    | some x =>
      obtain ⟨t, h, e⟩ := exec_effect (decodeBus x) s.beginCycle.enginePhase
      exact ⟨t, h, e, nofun, fun y hy => by cases hy; exact h⟩
  · exact .inl ⟨rfl, rfl⟩

/-! What no transaction changes. -/

section Frame
variable {s t : State}

theorem Effect.inst_eq (e : Effect s t) : t.inst = s.inst := by cases e <;> simp

theorem Effect.host_eq (e : Effect s t) : t.host = s.host := by cases e <;> simp

theorem Effect.out_eq (e : Effect s t) : t.out = s.out := by cases e <;> simp

end Frame

end Sys2Proof.Machine
end

