-- ==== Sys2Proof/Tests/Slice0.lean ====
section
/-! SUPPORT. Tests: expected results are from spec/95_test_vectors.md, from the worked examples of the rules, or written out from the encoding tables of 30_encoding.md; and for each statement with hypotheses a witness that meets them. -/

open Sys2Proof Sys2Proof.Machine

namespace Sys2Proof.Tests

/-! Small states. -/

/-- After reset, with `CC_LATENCY` = 3. -/
def idle : State := State.resetFor ⟨2⟩

/-- The key and block of L1-1 (95_test_vectors.md). -/
def keyL1 : Quad :=
  ⟨0x0000000000000000#64, 0x89ABCDEF01234567#64, 0x0123456789ABCDEF#64, 0xFFFFFFFFFFFFFFFF#64⟩

/-- ENCRYPT of the zero block in flight, `n` cycles left. -/
def inFlight (n : Nat) : State :=
  { idle with busy := true, engOp := 0x01#8, lastop := 0x01#8, rem := n }

/-- REKEY in flight in its last cycle. -/
def rekeyLast : State :=
  { idle with busy := true, engOp := 0x03#8, lastop := 0x03#8, rem := 1 }

/-- The state with one write presented. -/
def writing (s : State) (a : Addr) (v : Word) : State := s.present (wrTxn a v)

/-- The state with a reset cycle presented, and a transaction in it. -/
def resetting (s : State) (t : Txn) : State :=
  { s with host := [{ rst := true, txn := some t }] }

/-- `STATUS`, `BITS` and `COUNT` of an outcome. -/
def seen (o : Outcome) : Option (Word × Word × Word) :=
  match o with
  | .next t => some (statusWord t, t.bits, t.count)
  | _ => none

/-- What the port returned. -/
def returned (o : Outcome) : Option Word :=
  match o with
  | .next t => t.rdata
  | _ => none

/-- `OUT`, `KEY` and `STATUS` of an outcome. -/
def results (o : Outcome) : Option (Quad × Quad × Word) :=
  match o with
  | .next t => some (t.out, t.key, statusWord t)
  | _ => none

/-! WellFormed (30_encoding.md R44): each check refuses its ill-formed term, and the boundary passes. -/

theorem test_wf_setbit_refuses_64 : ¬ WellFormed (.accSetbit 64#8) ∧ WellFormed (.accSetbit 63#8) := by
  decide

theorem test_wf_insert_refuses_a_65 :
    ¬ WellFormed (.accInsert 0#32 32#8 65#8) ∧ WellFormed (.accInsert 0#32 32#8 64#8) := by
  decide

theorem test_wf_insert_refuses_b_33 : ¬ WellFormed (.accInsert 0#32 33#8 64#8) := by decide

theorem test_wf_carry_refuses_a_65 :
    ¬ WellFormed (.accCarry 0#32 32#8 65#8) ∧ WellFormed (.accCarry 0#32 32#8 64#8) := by
  decide

theorem test_wf_carry_refuses_b_33 : ¬ WellFormed (.accCarry 0#32 33#8 64#8) := by decide

/-! Decoding: words written out bit by bit from R41, R42 and R44 (`IMM` `RSV` `B` `A` `OP`). -/

theorem test_decode_reg_read : decodeBus (txnOfHeader 0b0011011#7 0#64) = .regRead 0x1B#6 := by decide

theorem test_decode_reg_write :
    decodeBus (txnOfHeader 0b1011000#7 1#64) = .regWrite 0x18#6 1#64 := by
  decide

theorem test_decode_nop :
    decodeCmd (0b00000000000000000000000000000000#32 ++ (0b00000000#8 ++ (0b00000000#8 ++ (0b00000000#8 ++ 0b00000000#8)))) =
      .ok .nop := rfl

theorem test_decode_encrypt :
    decodeCmd (0b00000000000000000000000000000000#32 ++ (0b00000000#8 ++ (0b00000000#8 ++ (0b00000000#8 ++ 0b00000001#8)))) =
      .ok .encrypt := rfl

theorem test_decode_mash : decodeCmd 0b10#64 = .ok .mash := rfl

theorem test_decode_rekey : decodeCmd 0b11#64 = .ok .rekey := rfl

theorem test_decode_acc_clear : decodeCmd 0b10000#64 = .ok .accClear := rfl

theorem test_decode_acc_setbit :
    decodeCmd (0b00000000000000000000000000000000#32 ++ (0b00000000#8 ++ (0b00000000#8 ++ (0b00111111#8 ++ 0b00010001#8)))) =
      .ok (.accSetbit 63#8) := rfl

theorem test_decode_acc_insert :
    decodeCmd (0b00000000000010101011110011011110#32 ++ (0b00000000#8 ++ (0b00010100#8 ++ (0b00110010#8 ++ 0b00010010#8)))) =
      .ok (.accInsert 0xABCDE#32 20#8 50#8) := rfl

theorem test_decode_acc_carry :
    decodeCmd (0b00000000000010101011110011011110#32 ++ (0b00000000#8 ++ (0b00010100#8 ++ (0b00001110#8 ++ 0b00010011#8)))) =
      .ok (.accCarry 0xABCDE#32 20#8 14#8) := rfl

theorem test_decode_cnt_inc : decodeCmd 0b10100#64 = .ok .cntInc := rfl

/-- T-DEC: one word for each way of rejecting, and the priority of RESERVED_FIELD. -/
theorem test_decode_rejects :
    decodeCmd 0x0F#64 = .error .illegalOp ∧ decodeCmd 0x15#64 = .error .illegalOp ∧
    decodeCmd 0x01000000#64 = .error .reservedField ∧ decodeCmd 0x10011#64 = .error .reservedField ∧
    decodeCmd 0x0000000100004011#64 = .error .reservedField ∧
    decodeCmd 0x4011#64 = .error .invalidArg ∧ decodeCmd 0x214012#64 = .error .invalidArg ∧
    decodeCmd 0x204112#64 = .error .invalidArg := ⟨rfl, rfl, rfl, rfl, rfl, rfl, rfl, rfl⟩

/-- The table's own numbering (log 10): a header byte and a command word, and the first step after reset runs them. -/
theorem test_table_words :
    decodeTableWord 8 0x40 = some (.regWrite 0x00#6 0#64) ∧
    decodeTableWord 8 0x00 = some (.regRead 0x00#6) ∧
    decodeTableWord 32 0x12 = some (.accInsert 0#32 0#8 0#8) ∧
    decodeTableWord 64 0x14 = some .cntInc ∧ decodeTableWord 64 0x04 = none := by
  decide

theorem test_fetch_word_runs_after_reset :
    seen (step (State.reset.withFetchWord 64 0x14)) = some (0x1400#64, 0#64, 1#64) := by
  decide

/-! CipherCore: T-MIX, T-KS, V0 and V2. -/

theorem test_mix_wraps :
    CipherCore.mix 0x0123456789ABCDEF#64 0xFEDCBA9876543210#64 16 =
      (0xFFFFFFFFFFFFFFFF#64, 0x456789ABCDEF0123#64) := by
  decide

theorem test_key_schedule_l1 : CipherCore.keyWord keyL1 4 = 0x6CA66CADDE8B6D55#64 := by decide

theorem test_encrypt_v0 :
    CipherCore.encrypt ⟨0#64, 0#64, 0#64, 0#64⟩ ⟨0#64, 0#64, 0#64, 0#64⟩ =
      ⟨0x94EEEA8B1F2ADA84#64, 0xADF103313EAE6670#64, 0x952419A1F4B16D53#64, 0xD83F13E63C9F6B11#64⟩ := by
  decide +kernel

/-- V2; its first word is the vector of the source (L1-1). -/
theorem test_encrypt_v2 :
    CipherCore.encrypt keyL1 keyL1 =
      ⟨0x01FA513DB1451B1A#64, 0x587B6F21E58EBD5B#64, 0xA5ED40F05B2BB82F#64, 0x4B8671BF18E5B514#64⟩ := by
  decide +kernel

/-! The instructions. -/

/-- T-BUS B6: the 32-bit view. -/
theorem test_reg_read_out32 :
    returned (exec (.regRead 0x11#6) { idle with out := ⟨0x01FA513DB1451B1A#64, 0#64, 0#64, 0#64⟩ }) =
      some 0x00000000B1451B1A#64 := by
  decide

/-- T-BUS B7 and B8: `STATUS` reads back after a write that clears DONE only. -/
theorem test_reg_write_status :
    seen (exec (.regWrite 0x19#6 0x2#64)
      { idle with done := true, err := true, errcode := .invalidArg, lastop := 1#8 }) =
      some (0x0134#64, 0#64, 0#64) := by
  decide

/-- T-BUS B11. -/
theorem test_reg_write_ctrl :
    exec (.regWrite 0x1A#6 0xFFFFFFFFFFFFFFFE#64) idle = .next { idle with errIe := true } ∧
    seen (exec (.regWrite 0x18#6 0x1234#64) (inFlight 3)) = some (0x0145#64, 0#64, 0#64) :=
  ⟨rfl, by decide⟩

/-- R67's worked example. -/
theorem test_nop_status : seen (exec .nop { idle with done := true, lastop := 1#8 }) = some (0x2#64, 0#64, 0#64) := by
  decide

/-- T-DEC: the issue of ENCRYPT. -/
theorem test_encrypt_issues : seen (exec .encrypt idle) = some (0x0101#64, 0#64, 0#64) := by decide

/-- T-DEC: the issue of MASH captures `[BITS, COUNT, 0, 0]`. -/
theorem test_mash_issues :
    exec .mash { idle with bits := 5#64, count := 7#64 } =
      .next { idle with
        bits := 5#64, count := 7#64, busy := true, lastop := 2#8, engOp := 2#8
        engIn := ⟨5#64, 7#64, 0#64, 0#64⟩, rem := 3 } := rfl

/-- R81 (d): REKEY completes in the cycle of a host write to `KEY1`; the other words are V0's. -/
theorem test_rekey_completion_and_key_write :
    results (step (writing rekeyLast 0x01#6 9#64)) =
      some (⟨0x94EEEA8B1F2ADA84#64, 0xADF103313EAE6670#64, 0x952419A1F4B16D53#64, 0xD83F13E63C9F6B11#64⟩,
        ⟨0x94EEEA8B1F2ADA84#64, 9#64, 0x952419A1F4B16D53#64, 0xD83F13E63C9F6B11#64⟩, 0x0302#64) := by
  decide +kernel

/-- T-ACC. -/
theorem test_acc_clear :
    seen (exec .accClear { idle with bits := 0xF379234567890ABC#64, count := 5#64 }) =
      some (0x1000#64, 0#64, 0#64) := by
  decide

/-- T-ACC: the top bit. -/
theorem test_acc_setbit_63 :
    seen (exec (.accSetbit 63#8) { idle with bits := 8#64 }) =
      some (0x1100#64, 0x8000000000000008#64, 0#64) := by
  decide

/-- T-ACC: the portion that fits. -/
theorem test_acc_insert_drops_high_bits :
    seen (exec (.accInsert 0xABCDE#32 20#8 50#8) { idle with bits := 0x0001234567890ABC#64, count := 5#64 }) =
      some (0x1200#64, 0xF379234567890ABC#64, 5#64) := by
  decide

/-- T-ACC: `mask(32)` keeps 32 bits. -/
theorem test_acc_insert_mask_32 :
    seen (exec (.accInsert 0xFFFFFFFF#32 32#8 32#8) idle) = some (0x1200#64, 0xFFFFFFFF00000000#64, 0#64) := by
  decide

/-- T-ACC: the carried bits replace `BITS`. -/
theorem test_acc_carry :
    seen (exec (.accCarry 0xABCDE#32 20#8 14#8) { idle with bits := 0x123#64 }) =
      some (0x1300#64, 0x2A#64, 0#64) := by
  decide

/-- T-ACC: a shift of 64. -/
theorem test_acc_carry_64 :
    seen (exec (.accCarry 0xFFFFFFFF#32 32#8 64#8) { idle with bits := 0x123#64 }) =
      some (0x1300#64, 0#64, 0#64) := by
  decide

/-- T-ACC: the counter wraps. -/
theorem test_cnt_inc_wraps :
    seen (exec .cntInc { idle with count := 0xFFFFFFFFFFFFFFFF#64 }) = some (0x1400#64, 0#64, 0#64) := by
  decide

/-- T-RST R-2 and R-3: a reset cycle abandons the command and drops the write. -/
theorem test_reset_drops_write :
    results (step (resetting (inFlight 1) (wrTxn 0x00#6 5#64))) =
      some (⟨0#64, 0#64, 0#64, 0#64⟩, ⟨0#64, 0#64, 0#64, 0#64⟩, 0#64) := by
  decide

/-- R49: `clr.status`, and `ldkey` over four writes. -/
theorem test_assemble_pseudo :
    assemble .clrStatus = some [wrTxn 0x19#6 6#64] ∧
    (assemble (.ldkey 1#64 2#64 3#64 4#64)).map List.length = some 4 ∧
    assemble (.accInsert 0xABCDE 20 50) = some [cmdTxn 0x000ABCDE00143212#64] := by
  decide

/-! Witnesses: for each statement with hypotheses, values that meet them. -/

theorem witness_mix_rotation_bounds : (1 ≤ 1 ∧ 1 ≤ 63) ∧ (1 ≤ 63 ∧ 63 ≤ 63) ∧ (0 < 2 ∧ 1 < 2) := by decide

/-- V5's key. -/
theorem witness_key_words_cancel :
    (0x1BD11BDAA9FC1A22#64 : Word) ^^^ 0#64 ^^^ 0#64 ^^^ 0#64 = 0x1BD11BDAA9FC1A22#64 := by
  decide

theorem witness_round_parities : (0 < 72 ∧ 0 % 2 = 0) ∧ (71 < 72 ∧ 71 % 2 = 1) ∧ 18 ≤ 18 := by decide

/-- The working words of a run of `E` exist. -/
theorem witness_working_words (k p : Quad) :
    ∃ w : Nat → Quad, w 0 = CipherCore.addQuad p (CipherCore.subkey k 0) ∧
      ∀ d, d < 72 → w (d + 1) =
        if d % 4 = 3 then
          CipherCore.addQuad (CipherCore.round d (w d)) (CipherCore.subkey k ((d + 1) / 4))
        else CipherCore.round d (w d) :=
  ⟨fun n => (List.range n).foldl (CipherCore.roundInject k) (CipherCore.addQuad p (CipherCore.subkey k 0)),
    rfl, fun d _ => by
      show List.foldl _ _ (List.range (d + 1)) = _
      rw [List.range_succ, List.foldl_append]
      rfl⟩

/-- An address for each clause of the map, at the ends of each range. -/
theorem witness_map_addresses :
    (0x00#6).toNat = (0 : Fin 4).val ∧ (0x03#6).toNat = (3 : Fin 4).val ∧
    (0x04#6).toNat = 0x04 + (0 : Fin 4).val ∧ (0x07#6).toNat = 0x04 + (3 : Fin 4).val ∧
    (0x08#6).toNat = 0x08 ∧ (0x09#6).toNat = 0x09 ∧
    (0x0A ≤ (0x0A#6).toNat ∧ (0x0B#6).toNat ≤ 0x0B) ∧
    (0x0C#6).toNat = 0x0C + (0 : Fin 4).val ∧ (0x0F#6).toNat = 0x0C + (3 : Fin 4).val ∧
    (0x10#6).toNat = 0x10 + (0 : Fin 8).val ∧ (0x17#6).toNat = 0x10 + (7 : Fin 8).val ∧
    (0x18#6).toNat = 0x18 ∧ (0x19#6).toNat = 0x19 ∧ (0x1A#6).toNat = 0x1A ∧
    (0x1B#6).toNat = 0x1B ∧ 0x1C ≤ (0x1C#6).toNat ∧ 0x1C ≤ (0x3F#6).toNat := by
  decide

theorem witness_read_only_addresses :
    (0x0A ≤ (0x0A#6).toNat ∧ (0x0A#6).toNat ≤ 0x17) ∧
    (0x0A ≤ (0x17#6).toNat ∧ (0x17#6).toNat ≤ 0x17) ∧
    0x1B ≤ (0x1B#6).toNat ∧ 0x1B ≤ (0x3F#6).toNat := by
  decide

theorem witness_not_cmd_address : (0x17#6 : Addr) ≠ 0x18#6 ∧ (0x19#6 : Addr) ≠ 0x18#6 := by decide

/-- Both values of ERR, and a command accepted with ERR = 1. -/
theorem witness_rejection_states :
    idle.err = false ∧ ({ idle with err := true, errcode := .illegalOp } : State).err = true ∧
    ({ idle with err := true, errcode := .illegalOp } : State).busy = false ∧
    decodeCmd 0x10#64 = .ok .accClear := ⟨rfl, rfl, rfl, rfl⟩

/-- Words for each way a reserved field can be set: `RSV`; `A` of NOP; `B` and `IMM` of ACC_SETBIT. -/
theorem witness_reserved_words :
    idle.busy = false ∧
    ((0x01000012#64 : Word).extractLsb' 0 8 = CmdOp.accInsert.code ∧
      (0x01000012#64 : Word).extractLsb' 24 8 ≠ 0#8) ∧
    ((0x100#64 : Word).extractLsb' 0 8 = CmdOp.nop.code ∧
      CmdOp.nop ∉ [CmdOp.accSetbit, .accInsert, .accCarry] ∧ (0x100#64 : Word).extractLsb' 8 8 ≠ 0#8) ∧
    ((0x10011#64 : Word).extractLsb' 0 8 = CmdOp.accSetbit.code ∧
      CmdOp.accSetbit ∉ [CmdOp.accInsert, .accCarry] ∧ (0x10011#64 : Word).extractLsb' 16 8 ≠ 0#8) ∧
    (0x100000011#64 : Word).extractLsb' 32 32 ≠ 0#32 := by
  decide

/-- The ends of the unassigned opcode ranges. -/
theorem witness_unassigned_opcodes :
    idle.busy = false ∧
    (0x04 ≤ ((0x04#64 : Word).extractLsb' 0 8).toNat ∧ ((0x04#64 : Word).extractLsb' 0 8).toNat ≤ 0x0F) ∧
    ((0x0F#64 : Word).extractLsb' 0 8).toNat ≤ 0x0F ∧
    0x15 ≤ ((0x15#64 : Word).extractLsb' 0 8).toNat ∧ 0x15 ≤ ((0xFF#64 : Word).extractLsb' 0 8).toNat := by
  decide

theorem witness_busy_command :
    (inFlight 3).busy = true ∧ (∀ a : Addr, Instr.cntInc ≠ .regRead a) ∧
      ∀ (a : Addr) (v : Word), Instr.cntInc ≠ .regWrite a v :=
  ⟨rfl, (fun _ h => by cases h), (fun _ _ h => by cases h)⟩

/-- The words of the RESERVED_FIELD clauses of the rules of the immediate commands. -/
theorem witness_immediate_reserved_words :
    ((0x100#64 : Word).extractLsb' 0 8 = 0x00#8 ∧ (0x100#64 : Word) >>> 8 ≠ 0#64) ∧
    ((0x110#64 : Word).extractLsb' 0 8 = 0x10#8 ∧ (0x110#64 : Word) >>> 8 ≠ 0#64) ∧
    ((0x10011#64 : Word).extractLsb' 0 8 = 0x11#8 ∧ (0x10011#64 : Word) >>> 16 ≠ 0#64) ∧
    ((0x1000012#64 : Word).extractLsb' 0 8 = 0x12#8 ∧ (0x1000012#64 : Word).extractLsb' 24 8 ≠ 0#8) ∧
    ((0x1000013#64 : Word).extractLsb' 0 8 = 0x13#8 ∧ (0x1000013#64 : Word).extractLsb' 24 8 ≠ 0#8) ∧
    ((0x114#64 : Word).extractLsb' 0 8 = 0x14#8 ∧ (0x114#64 : Word) >>> 8 ≠ 0#64) := by
  decide

/-- NOP's worked example: idle, DONE set, no error. -/
theorem witness_nop_example :
    ({ idle with done := true } : State).busy = false ∧ ({ idle with done := true } : State).done = true ∧
    ({ idle with done := true } : State).err = false ∧
    ({ idle with done := true } : State).errcode = .none := by
  decide

/-- The argument ranges, at and past each bound; a `BITS` with the bit already set; a `COUNT` that wraps. -/
theorem witness_argument_bounds :
    (63#8).toNat ≤ 63 ∧ 63 < (64#8).toNat ∧ (64#8).toNat ≤ 64 ∧ 64 < (65#8).toNat ∧
    (32#8).toNat ≤ 32 ∧ 32 < (33#8).toNat ∧ (32#8).toNat ≤ (32#8).toNat ∧ 32 ≤ (32#8).toNat ∧
    ({ idle with bits := 1#64 } : State).bits.getLsbD (0#8).toNat = true ∧
    ({ idle with count := 0xFFFFFFFFFFFFFFFF#64 } : State).count = 0xFFFFFFFFFFFFFFFF#64 ∧
    WellFormed (.accSetbit 63#8) ∧ WellFormed (.accInsert 0#32 32#8 64#8) ∧
    WellFormed (.accCarry 0#32 32#8 64#8) := by
  decide

/-- Idempotence of ACC_CLEAR and ACC_SETBIT: their premises that exec answered. -/
theorem witness_idempotent_commands :
    (∃ t, idle.busy = false ∧ exec .accClear idle = .next t) ∧
    (∃ t, exec (.accSetbit 0#8) { idle with bits := 1#64 } = .next t) ∧
    ∃ t, exec .cntInc { idle with count := 0xFFFFFFFFFFFFFFFF#64 } = .next t :=
  ⟨⟨_, rfl, rfl⟩, ⟨_, rfl⟩, ⟨_, rfl⟩⟩

/-- Phase (a): idle, running, and in the last cycle. -/
theorem witness_engine_phases :
    idle.busy = false ∧ ((inFlight 2).busy = true ∧ 2 ≤ (inFlight 2).rem) ∧ Completing (inFlight 1) :=
  ⟨rfl, ⟨rfl, by decide⟩, rfl, rfl⟩

/-- A command in flight with no reset ahead, though the host presents a write. -/
theorem witness_engine_run :
    (writing (inFlight 3) 0x00#6 7#64).busy = true ∧ 1 ≤ (writing (inFlight 3) 0x00#6 7#64).rem ∧
      NoReset (writing (inFlight 3) 0x00#6 7#64) 3 :=
  ⟨rfl, by decide, by simp [NoReset, writing, State.present, State.setHost, inFlight, idle, State.resetFor]⟩

theorem witness_presented_transaction :
    (writing idle 0x08#6 5#64).input.rst = false ∧
    (writing idle 0x08#6 5#64).input.txn = some (wrTxn 0x08#6 5#64) ∧
    idle.input.rst = false ∧ idle.input.txn = none := by
  decide

theorem witness_decoded_command :
    Writes (writing idle 0x18#6 0x3F11#64) 0x18#6 0x3F11#64 ∧
    decodeCmd 0x3F11#64 = .ok (.accSetbit 63#8) := ⟨⟨rfl, rfl⟩, rfl⟩

theorem witness_table_word : decodeTableWord 64 0x3F11 = some (.accSetbit 63#8) := by decide

/-- The busy window, at its last cycle. -/
theorem witness_busy_window :
    (writing (inFlight 2) 0x18#6 0x1234#64).busy = true ∧
    2 ≤ (writing (inFlight 2) 0x18#6 0x1234#64).rem ∧
    Writes (writing (inFlight 2) 0x18#6 0x1234#64) 0x18#6 0x1234#64 := ⟨rfl, by decide, rfl, rfl⟩

/-- The completion cycle with each of the four transactions of R81. -/
theorem witness_completion_cycle :
    (Completing (writing (inFlight 1) 0x18#6 0#64) ∧
      Writes (writing (inFlight 1) 0x18#6 0#64) 0x18#6 0#64 ∧ decodeCmd 0#64 = .ok .nop) ∧
    (Writes (writing (inFlight 1) 0x19#6 2#64) 0x19#6 2#64 ∧ (2#64 : Word).getLsbD 1 = true) ∧
    (Writes (writing (inFlight 1) 0x18#6 5#64) 0x18#6 5#64 ∧ decodeCmd 5#64 = .error .illegalOp) ∧
    (Completing (writing rekeyLast 0x03#6 9#64) ∧
      Writes (writing rekeyLast 0x03#6 9#64) (BitVec.ofNat 6 (3 : Fin 4).val) 9#64 ∧
      (writing rekeyLast 0x03#6 9#64).engOp = 0x03#8) :=
  ⟨⟨⟨rfl, rfl⟩, ⟨rfl, rfl⟩, rfl⟩, ⟨⟨rfl, rfl⟩, by decide⟩, ⟨⟨rfl, rfl⟩, rfl⟩, ⟨⟨rfl, rfl⟩, ⟨rfl, rfl⟩, rfl⟩⟩

/-- Reset cycles with a read, with a write, and with none. -/
theorem witness_reset_cycles :
    (resetting (inFlight 1) (rdTxn 0x1B#6)).input.rst = true ∧
    (resetting (inFlight 1) (rdTxn 0x1B#6)).input.txn = some (rdTxn 0x1B#6) ∧
    (rdTxn 0x1B#6).we = false ∧
    (resetting idle (wrTxn 0x00#6 1#64)).input.txn = some (wrTxn 0x00#6 1#64) ∧
    (wrTxn 0x00#6 1#64).we = true ∧
    (({ idle with host := [{ rst := true, txn := none }] } : State).input.rst = true ∧
      ({ idle with host := [{ rst := true, txn := none }] } : State).input.txn = none) := by
  decide

/-- A legal state with a command in flight and a host that presents a write to `CMD`, and the step it takes. -/
theorem witness_legal_step :
    Legal (writing (inFlight 2) 0x18#6 5#64) ∧ (writing (inFlight 2) 0x18#6 5#64).input.rst = false ∧
      ∃ t, step (writing (inFlight 2) 0x18#6 5#64) = .next t := by
  refine ⟨⟨fun _ => by decide, by decide, by decide, fun _ => ⟨rfl, .inl rfl⟩, ⟨.encrypt, rfl⟩, ?_⟩, rfl, _, rfl⟩
  intro _ h
  exact absurd rfl h

/-- What each clause about a changed register needs: a write that changes it, or the completion of REKEY. -/
theorem witness_changed_registers :
    (results (step (writing idle 0x00#6 5#64))).map (fun r => r.2.1.w0) = some 5#64 ∧
    seen (step (writing idle 0x18#6 0x14#64)) = some (0x1400#64, 0#64, 1#64) ∧
    seen (step (writing idle 0x18#6 0x3F11#64)) = some (0x1100#64, 0x8000000000000000#64, 0#64) ∧
    Completing rekeyLast := ⟨by decide, by decide, by decide, rfl, rfl⟩

/-- What each clause about a changed flag needs: ERR set and cleared, BUSY set, DONE cleared. -/
theorem witness_changed_flags :
    seen (step (writing idle 0x18#6 5#64)) = some (0x14#64, 0#64, 0#64) ∧
    seen (step (writing { idle with err := true, errcode := .illegalOp } 0x19#6 4#64)) =
      some (0#64, 0#64, 0#64) ∧
    seen (step (writing idle 0x18#6 1#64)) = some (0x0101#64, 0#64, 0#64) ∧
    seen (step (writing { idle with done := true } 0x19#6 2#64)) = some (0#64, 0#64, 0#64) := by
  decide

/-- Two different states that differ only in the sticky flags, and a transaction that reads neither of them. -/
theorem witness_sticky_flags :
    idle.withoutFlags = ({ idle with done := true, err := true, errcode := .busy, errIe := true } : State).withoutFlags ∧
    idle ≠ { idle with done := true, err := true, errcode := .busy, errIe := true } ∧
    (0x08#6 : Addr) ≠ 0x19#6 ∧ (0x08#6 : Addr) ≠ 0x1A#6 := by
  decide

/-- Words for each clause of the table decoder: no row, a failed mask, a failed range, and a row. -/
theorem witness_table_clauses :
    (∀ op : CmdOp, (0x04#64 : Word).extractLsb' 0 8 ≠ op.code) ∧
    ((0x100#64 : Word) &&& rowMask .nop ≠ rowMatch .nop) ∧
    ((0x4011#64 : Word) &&& rowMask .accSetbit = rowMatch .accSetbit ∧
      ¬ rowRange .accSetbit ((0x4011#64 : Word).extractLsb' 16 8) ((0x4011#64 : Word).extractLsb' 8 8)) ∧
    ((0x204012#64 : Word) &&& rowMask .accInsert = rowMatch .accInsert ∧
      rowRange .accInsert ((0x204012#64 : Word).extractLsb' 16 8) ((0x204012#64 : Word).extractLsb' 8 8)) := by
  refine ⟨fun op => by cases op <;> decide, by decide, ⟨by decide, fun h => ?_⟩, by decide, ?_⟩
  · exact absurd (h.1 rfl) (by decide)
  · exact ⟨nofun, fun _ => by decide⟩

theorem witness_assembler_fields :
    255 < 256 ∧ 256 ≤ 256 ∧ 2 ^ 32 - 1 < 2 ^ 32 ∧ 2 ^ 32 ≤ 2 ^ 32 := by decide

/-- A host that polls `STATUS` through the last two cycles of a command, and the issue that starts the count. -/
theorem witness_wait :
    ({ inFlight 2 with host := List.replicate 2 { rst := false, txn := some (rdTxn 0x19#6) } } : State).host =
      List.replicate (inFlight 2).rem { rst := false, txn := some (rdTxn 0x19#6) } ++ [] ∧
    (inFlight 2).busy = true ∧ 1 ≤ (inFlight 2).rem ∧ 1 ≤ 2 ∧ 2 ≤ (inFlight 2).rem ∧
    ∃ t, idle.busy = false ∧ exec .encrypt idle = .next t :=
  ⟨by decide, rfl, by decide, by decide, by decide, _, rfl, rfl⟩

end Sys2Proof.Tests
end

section
/-! The statements of 10_state.md: the 32-bit view of `OUT` (R17) and the values after reset (R29). -/

namespace Sys2Proof.Machine

theorem zext64_highHalf_toNat (w : Word) : (zext64 (highHalf w)).toNat = w.toNat / 2 ^ 32 := by
  have hw := w.isLt
  simp only [zext64, highHalf, BitVec.toNat_setWidth, BitVec.extractLsb'_toNat,
    Nat.shiftRight_eq_div_pow]
  omega

theorem zext64_lowHalf_toNat (w : Word) : (zext64 (lowHalf w)).toNat = w.toNat % 2 ^ 32 := by
  simp only [zext64, lowHalf, BitVec.toNat_setWidth, BitVec.extractLsb'_toNat, Nat.shiftRight_zero]
  omega

theorem zext64_toNat_lt (h : Half) : (zext64 h).toNat < 2 ^ 32 := by
  rw [zext64, BitVec.toNat_setWidth_of_le (by decide)]
  exact h.isLt

theorem out32_toNat (q : Quad) (j : Fin 8) :
    (out32 q j).toNat =
      if j.val % 2 = 0 then (quadGet q (Fin.ofNat 4 (j.val / 2))).toNat / 2 ^ 32
      else (quadGet q (Fin.ofNat 4 (j.val / 2))).toNat % 2 ^ 32 := by
  unfold out32
  split
  · exact zext64_highHalf_toNat _
  · exact zext64_lowHalf_toNat _

theorem out32_toNat_lt (q : Quad) (j : Fin 8) : (out32 q j).toNat < 2 ^ 32 := by
  unfold out32
  split <;> exact zext64_toNat_lt _

theorem readReg_out32 (s : State) (j : Fin 8) :
    readReg s (BitVec.ofNat 6 (0x10 + j.val)) = out32 s.out j := by
  simp only [readReg, regAt_out32]

theorem exec_regRead (s : State) (a : Addr) :
    exec (.regRead a) s = .next { s with rdata := some (readReg s a) } := rfl

theorem exec_regWrite_out32 (s : State) (j : Fin 8) (v : Word) :
    exec (.regWrite (BitVec.ofNat 6 (0x10 + j.val)) v) s = .next s := by
  have hcmd : BitVec.ofNat 6 (0x10 + j.val) ≠ 0x18#6 := by
    simp [← regAt_eq_cmd_iff, regAt_out32]
  rw [exec_regWrite hcmd, regAt_out32]
  rfl

/-- The view of the zero block, which `OUT` is after reset (R29), is zero everywhere. -/
theorem out32_zero (j : Fin 8) : out32 ⟨0#64, 0#64, 0#64, 0#64⟩ j = 0#64 := by
  revert j; decide

/-- The first word of vector V0 (95_test_vectors.md): the cipher of the zero block under the zero key. -/
theorem encrypt_zero_w0 :
    (CipherCore.encrypt ⟨0#64, 0#64, 0#64, 0#64⟩ ⟨0#64, 0#64, 0#64, 0#64⟩).w0 =
      0x94EEEA8B1F2ADA84#64 :=
  congrArg Quad.w0 Tests.test_encrypt_v0

/-- `OUT` after reset is no cipher result: it differs from `E(0, 0)` in the first word. -/
theorem reset_out_ne_encrypt_zero :
    State.reset.out ≠
      CipherCore.encrypt ⟨0#64, 0#64, 0#64, 0#64⟩ ⟨0#64, 0#64, 0#64, 0#64⟩ := by
  apply ne_of_apply_ne Quad.w0
  rw [encrypt_zero_w0]
  decide

/-- Settles O8: the address of `OUT32_j` selects the view of `OUT`, whose words are halves of its words. -/
theorem out32ReadsHalvesHighFirst : Obligations.Out32ReadsHalvesHighFirst := by
  intro s j
  refine ⟨⟨out32 s.out j, ?_, out32_toNat_lt _ _, out32_toNat _ _⟩, exec_regWrite_out32 s j⟩
  rw [exec_regRead, readReg_out32]

/-- Settles O41: the fields are `State.resetFor`'s by definition; the view of `OUT` is `out32_zero`, and `E(0, 0)` is told from `OUT` by its first word. -/
theorem resetLeavesEveryFieldZero : Obligations.ResetLeavesEveryFieldZero := by
  have hview (j : Fin 8) : readReg State.reset (BitVec.ofNat 6 (0x10 + j.val)) = 0#64 :=
    (readReg_out32 _ j).trans (out32_zero j)
  exact ⟨rfl, rfl, rfl, rfl, rfl, hview, rfl, rfl, rfl, rfl, rfl, rfl, rfl, rfl, rfl, rfl, rfl,
    rfl, rfl, reset_out_ne_encrypt_zero, encrypt_zero_w0⟩

end Sys2Proof.Machine
end

section
/-! The statements of 30_encoding.md about words that stand for no command: reserved fields (R45) and unassigned opcodes (R46). -/

namespace Sys2Proof

theorem CmdOp.usesA_eq_false_iff {op : CmdOp} :
    op.usesA = false ↔ op ∉ [CmdOp.accSetbit, .accInsert, .accCarry] := by
  cases op <;> decide

theorem CmdOp.usesBImm_eq_false_iff {op : CmdOp} :
    op.usesBImm = false ↔ op ∉ [CmdOp.accInsert, .accCarry] := by
  cases op <;> decide

/-- The assigned opcodes lie in the two ranges that R46 leaves out. -/
theorem CmdOp.code_toNat_range (op : CmdOp) :
    op.code.toNat ≤ 0x03 ∨ (0x10 ≤ op.code.toNat ∧ op.code.toNat ≤ 0x14) := by
  cases op <;> decide

theorem decodeOp_of_unassigned {v : Word} (h : ∀ op : CmdOp, fieldOp v ≠ op.code) :
    decodeOp v = .error .illegalOp := by
  simp [decodeOp, opOf_eq_none_iff.mpr h]

theorem decodeOp_of_reserved {v : Word} {op : CmdOp} (ho : fieldOp v = op.code)
    (hr : reservedClear op v = false) : decodeOp v = .error .reservedField := by
  simp [decodeOp, opOf_eq_some_iff.mpr ho, hr]

/-- R45 from its other side: which fields can make a word break it. -/
theorem reservedClear_eq_false_iff {op : CmdOp} {v : Word} :
    reservedClear op v = false ↔
      fieldRsv v ≠ 0#8 ∨ (op.usesA = false ∧ fieldA v ≠ 0#8) ∨
        (op.usesBImm = false ∧ (fieldB v ≠ 0#8 ∨ fieldImm v ≠ 0#32)) := by
  rw [← Bool.not_eq_true, reservedClear_iff]
  simp only [not_and_or, Classical.not_imp, ne_eq]

end Sys2Proof

namespace Sys2Proof.Machine

/-- Where `BUSY` = 0, a word that the decoder refuses is rejected with the decoder's code, and nothing else happens (R76). -/
theorem exec_regWrite_cmd_of_decodeOp_error {s : State} {v : Word} {c : ErrCode}
    (hb : s.busy = false) (h : decodeOp v = .error c) :
    exec (.regWrite 0x18#6 v) s = .next (s.cmdError c) := by
  simp [exec_regWrite_cmd, command, hb, h]

/-- Settles O18: each of the three ways to set a reserved field breaks `reservedClear`, which the decoder answers with RESERVED_FIELD. -/
theorem reservedFieldsAreRejected : Obligations.ReservedFieldsAreRejected := by
  intro s v op hb ho hset
  have hr : reservedClear op v = false := by
    rw [reservedClear_eq_false_iff, CmdOp.usesA_eq_false_iff, CmdOp.usesBImm_eq_false_iff]
    exact hset
  exact exec_regWrite_cmd_of_decodeOp_error hb (decodeOp_of_reserved ho hr)

/-- Settles O19: no opcode's number lies in the ranges of R46, so the decoder answers ILLEGAL_OP; the outcome of every word is `command_effect`. -/
theorem unassignedOpcodesAreRejected : Obligations.UnassignedOpcodesAreRejected := by
  constructor
  · intro s v hb hrange
    have hun (op : CmdOp) : fieldOp v ≠ op.code := by
      intro ho
      have hcode := op.code_toNat_range
      rw [← ho, fieldOp] at hcode
      omega
    exact exec_regWrite_cmd_of_decodeOp_error hb (decodeOp_of_unassigned hun)
  · intro s v
    obtain ⟨t, ht, -⟩ := command_effect v s
    exact ⟨t, ht⟩

end Sys2Proof.Machine
end

section
/-! The statements of 40_cipher.md sections 1 to 3 about CipherCore: the key schedule (R51), the subkeys (R52), MIX (R53) and the run of `E` (R55). -/

namespace Sys2Proof.Machine.CipherCore

/-! MIX (R53). -/

theorem mix_fst_toNat (a b : Word) (r : Nat) :
    (mix a b r).1.toNat = (a.toNat + b.toNat) % 2 ^ 64 :=
  BitVec.toNat_add a b

/-- `rotl64` (R8) is the library's rotation. -/
theorem rotl64_eq_rotateLeft (v : Word) {r : Nat} (h : r < 64) : rotl64 v r = v.rotateLeft r :=
  (BitVec.rotateLeft_eq_rotateLeftAux_of_lt h).symm

/-- Bit `j` of the rotated word is bit `j - r`, around the word. -/
theorem rotl64_getLsbD (v : Word) {r j : Nat} (hr : r < 64) (hj : j < 64) :
    (rotl64 v r).getLsbD j = v.getLsbD ((j + 64 - r) % 64) := by
  rw [rotl64_eq_rotateLeft v hr, BitVec.getLsbD_rotateLeft, Nat.mod_eq_of_lt hr]
  by_cases hlow : j < r
  · have hidx : (j + 64 - r) % 64 = 64 - r + j := by omega
    simp [hlow, hidx]
  · have hidx : (j + 64 - r) % 64 = j - r := by omega
    simp [hlow, hidx, hj]

theorem mix_snd_getLsbD (a b : Word) {r j : Nat} (hr : r < 64) (hj : j < 64) :
    (mix a b r).2.getLsbD j = (b.getLsbD ((j + 64 - r) % 64) ^^ (mix a b r).1.getLsbD j) := by
  rw [← rotl64_getLsbD b hr hj]
  exact BitVec.getLsbD_xor

/-- The new sum is xored in, so xoring it in again leaves the rotated word. -/
theorem mix_snd_xor_fst (a b : Word) (r : Nat) : (mix a b r).2 ^^^ (mix a b r).1 = rotl64 b r := by
  simp [mix]

theorem lowHalf_rotl64_32 (v : Word) : lowHalf (rotl64 v 32) = highHalf v := by
  apply BitVec.eq_of_getLsbD_eq
  intro j hj
  have hidx : (j + 32) % 64 = 32 + j := by omega
  simp [lowHalf, highHalf, rotl64_getLsbD v (r := 32) (j := j) (by decide) (by omega), hidx]

theorem highHalf_rotl64_32 (v : Word) : highHalf (rotl64 v 32) = lowHalf v := by
  apply BitVec.eq_of_getLsbD_eq
  intro j hj
  have hidx : (32 + j + 32) % 64 = j := by omega
  simp [lowHalf, highHalf, rotl64_getLsbD v (r := 32) (j := 32 + j) (by decide) (by omega), hidx]

theorem rotTable_range : ∀ i < 16, 5 ≤ rotTable.getD i 0 ∧ rotTable.getD i 0 ≤ 58 := by
  decide

theorem rot_range (d : Nat) {j : Nat} (hj : j < 2) : 5 ≤ rot d j ∧ rot d j ≤ 58 :=
  rotTable_range _ (by omega)

/-- Settles O1: the sum is `BitVec`'s, the rotation is read bit by bit (`rotl64_getLsbD`), and the rotations come from a table of 16 entries. -/
theorem mixAddsRotatesXors : Obligations.MixAddsRotatesXors := by
  refine ⟨fun a b r _ hr => ⟨mix_fst_toNat a b r, fun j hj => mix_snd_getLsbD a b (by omega) hj⟩,
    by decide, fun a b => ?_, fun d _ hj => rot_range d hj⟩
  rw [mix_snd_xor_fst]
  exact ⟨lowHalf_rotl64_32 b, highHalf_rotl64_32 b⟩

/-! The key schedule (R51) and the subkeys (R52). -/

/-- A key whose words xor to C240 has parity word 0. -/
theorem parityWord_eq_zero {k : Quad} (h : k.w0 ^^^ k.w1 ^^^ k.w2 ^^^ k.w3 = c240) :
    parityWord k = 0#64 := by
  rw [parityWord, h, BitVec.xor_self]

/-- Settles O2: word 4 of the schedule is `parityWord`. -/
theorem keyScheduleAddsParityWord : Obligations.KeyScheduleAddsParityWord :=
  ⟨fun _ => ⟨rfl, rfl, rfl, rfl, rfl⟩, by decide, fun _ h => parityWord_eq_zero h⟩

/-- The schedule is read with an index mod 5. -/
theorem keyWord_mod (k : Quad) (i : Nat) : keyWord k (i % 5) = keyWord k i := by
  simp only [keyWord, Nat.mod_mod]

theorem subkey_w3_toNat (k : Quad) (s : Nat) :
    (subkey k s).w3.toNat = ((keyWord k (s + 3)).toNat + s) % 2 ^ 64 := by
  simp only [subkey, BitVec.toNat_add, BitVec.toNat_ofNat, Nat.add_mod_mod]

/-- Subkey 0 is the key: its number, 0, adds nothing to word 3. -/
theorem subkey_zero (k : Quad) : subkey k 0 = k := by
  have hw3 : k.w3 + 0#64 = k.w3 := BitVec.add_zero k.w3
  exact congrArg (Quad.mk k.w0 k.w1 k.w2) hw3

/-- Settles O3: `subkey` reads the schedule at `s + i`, which `keyWord` takes mod 5. -/
theorem subkeyRotatesSchedule : Obligations.SubkeyRotatesSchedule := by
  refine ⟨fun k s _ => ?_, subkey_zero⟩
  simp only [keyWord_mod]
  exact ⟨rfl, rfl, rfl, subkey_w3_toNat k s⟩

/-! The run of `E` (R55). -/

/-- After `n` rounds of `E` the fold holds the `n`-th of any sequence of working words that starts alike and steps by `roundInject`. -/
theorem foldl_roundInject_eq_workingWord (k : Quad) (w : Nat → Quad) :
    ∀ n, (∀ d < n, w (d + 1) = roundInject k (w d) d) →
      (List.range n).foldl (roundInject k) (w 0) = w n
  | 0, _ => rfl
  | n + 1, hstep => by
    have ih := foldl_roundInject_eq_workingWord k w n fun d hd => hstep d (by omega)
    rw [List.range_succ, List.foldl_append, ih]
    exact (hstep n (by omega)).symm

/-- Settles O5: the equation of the working words is `roundInject`, so by induction on the rounds the fold of `encrypt` passes through them. -/
theorem encryptRunsSeventyTwoRounds : Obligations.EncryptRunsSeventyTwoRounds := by
  intro k p w hstart hstep
  rw [encrypt, ← hstart]
  exact foldl_roundInject_eq_workingWord k w 72 hstep

end Sys2Proof.Machine.CipherCore
end

section
/-! The statement of 40_cipher.md section 5 about engine issue (R59). -/

namespace Sys2Proof.Machine

/-! An accepted engine command is an issue with its own block (R62, R64, R65). -/

theorem exec_encrypt_idle {s : State} (h : s.busy = false) :
    exec .encrypt s = .next (s.issue CmdOp.encrypt.code s.blk) :=
  congrArg Host.Outcome.next (State.whenIdle_idle h _)

theorem exec_mash_idle {s : State} (h : s.busy = false) :
    exec .mash s = .next (s.issue CmdOp.mash.code (mixBlock s.bits s.count)) :=
  congrArg Host.Outcome.next (State.whenIdle_idle h _)

theorem exec_rekey_idle {s : State} (h : s.busy = false) :
    exec .rekey s = .next (s.issue CmdOp.rekey.code (mixBlock s.bits s.count)) :=
  congrArg Host.Outcome.next (State.whenIdle_idle h _)

/-- While a command is in flight no transaction touches the engine: only an accepted command could, and none is accepted. -/
theorem Effect.engine_eq_of_busy {s t : State} (e : Effect s t) (h : s.busy = true) :
    t.busy = true ∧ t.engOp = s.engOp ∧ t.engKey = s.engKey ∧ t.engIn = s.engIn ∧
      t.rem = s.rem := by
  cases e with
  | read v => simp [h]
  | write r v => simp [h]
  | rejected c hc => simp [h]
  | immediate op count bits idle => simp [h] at idle
  | issued op b idle hop hb => simp [h] at idle

/-- Settles O29: what is written is `State.issue`, and of the effects of an instruction none that BUSY = 1 allows reaches the engine. -/
theorem engineIssueCapturesInputs : Obligations.EngineIssueCapturesInputs := by
  refine ⟨fun s h => exec_encrypt_idle h, fun s h => exec_mash_idle h,
    fun s h => exec_rekey_idle h, fun s i h => ?_⟩
  obtain ⟨t, ht, e⟩ := exec_effect i s
  exact ⟨t, ht, e.engine_eq_of_busy h⟩

end Sys2Proof.Machine
end

section
/-! The statements of 42_accumulator.md: the immediate commands (R67 to R72). -/

namespace Sys2Proof

/-! Which words decode to a command, and which break R45. -/

/-- A command word whose unused fields are 0 and whose arguments are in range decodes to its command (R43, R44). -/
theorem decodeCmd_cmdWord {op : CmdOp} {imm : Half} {b a : Byte}
    (hA : op.usesA = false → a = 0#8) (hBImm : op.usesBImm = false → b = 0#8 ∧ imm = 0#32)
    (hargs : op.argsOk b a = true) : decodeCmd (cmdWord op imm b a) = .ok (op.instr imm b a) := by
  have hres : reservedClear op (cmdWord op imm b a) = true := by
    simpa [reservedClear_iff] using And.intro hA hBImm
  exact decodeCmd_eq_ok_iff.mpr ⟨op, by simp, hres, by simpa using hargs, by simp⟩

theorem setbitArgOk_iff {a : Byte} : setbitArgOk a = true ↔ a.toNat ≤ 63 := by
  simp [setbitArgOk]

theorem shiftArgsOk_iff {b a : Byte} : shiftArgsOk b a = true ↔ a.toNat ≤ 64 ∧ b.toNat ≤ 32 := by
  simp [shiftArgsOk]

theorem setbitArgOk_eq_false_iff {a : Byte} : setbitArgOk a = false ↔ 63 < a.toNat := by
  rw [← Bool.not_eq_true, setbitArgOk_iff, not_le]

theorem shiftArgsOk_eq_false_iff {b a : Byte} :
    shiftArgsOk b a = false ↔ 64 < a.toNat ∨ 32 < b.toNat := by
  rw [← Bool.not_eq_true, shiftArgsOk_iff, not_and_or, not_le, not_le]

/-- The fields above `A` are the bits of the word from 16 up. -/
theorem ushiftRight_sixteen_eq_zero {v : Word} (hb : fieldB v = 0#8) (hr : fieldRsv v = 0#8)
    (hi : fieldImm v = 0#32) : v >>> 16 = 0#64 := by
  rw [word_eq_fields v, hb, hr, hi]
  apply BitVec.eq_of_getLsbD_eq
  intro i _
  rw [BitVec.getLsbD_ushiftRight, fields_getLsbD]
  simp [show ¬ 16 + i < 8 by omega]

/-- The fields above `OP` are the bits of the word from 8 up. -/
theorem ushiftRight_eight_eq_zero {v : Word} (ha : fieldA v = 0#8) (hb : fieldB v = 0#8)
    (hr : fieldRsv v = 0#8) (hi : fieldImm v = 0#32) : v >>> 8 = 0#64 := by
  rw [word_eq_fields v, ha, hb, hr, hi]
  apply BitVec.eq_of_getLsbD_eq
  intro i _
  rw [BitVec.getLsbD_ushiftRight, fields_getLsbD]
  simp

/-- R45 for a command that uses `A` at most: every bit from 16 up is reserved. -/
theorem reservedClear_of_ushiftRight_sixteen {op : CmdOp} {v : Word} (hBImm : op.usesBImm = false)
    (h : v >>> 16 ≠ 0#64) : reservedClear op v = false := by
  rw [← Bool.not_eq_true, reservedClear_iff]
  rintro ⟨hr, -, hbi⟩
  obtain ⟨hb, hi⟩ := hbi hBImm
  exact h (ushiftRight_sixteen_eq_zero hb hr hi)

/-- R45 for a command without operands: every bit above the opcode is reserved. -/
theorem reservedClear_of_ushiftRight_eight {op : CmdOp} {v : Word} (hA : op.usesA = false)
    (hBImm : op.usesBImm = false) (h : v >>> 8 ≠ 0#64) : reservedClear op v = false := by
  rw [← Bool.not_eq_true, reservedClear_iff]
  rintro ⟨hr, ha, hbi⟩
  obtain ⟨hb, hi⟩ := hbi hBImm
  exact h (ushiftRight_eight_eq_zero (ha hA) hb hr hi)

end Sys2Proof

namespace Sys2Proof.Machine

/-- The word R48 writes as shifted numbers is the command word of its fields: a bit of it lies in one of the five fields, and each number is 0 above its field. -/
theorem asmShiftWord_eq_cmdWord (op : CmdOp) (imm : Half) (b a : Byte) :
    asmShiftWord op.code.toNat imm.toNat b.toNat a.toNat = cmdWord op imm b a := by
  apply BitVec.eq_of_getLsbD_eq
  intro i hi
  rw [cmdWord_getLsbD, asmShiftWord, BitVec.getLsbD_ofNat]
  simp only [Nat.testBit_or, Nat.testBit_shiftLeft, BitVec.testBit_toNat]
  grind

theorem asmSetbitWord_eq_cmdWord (a : Byte) :
    asmSetbitWord a.toNat = cmdWord .accSetbit 0#32 0#8 a := by
  rw [← asmShiftWord_eq_cmdWord]
  simp [asmShiftWord, asmSetbitWord, CmdOp.code]

/-! The rejections of a command, in the order of R76. -/

/-- While `BUSY` = 1 every command is rejected with BUSY. -/
theorem exec_instr_of_busy (op : CmdOp) (imm : Half) (b a : Byte) {s : State}
    (h : s.busy = true) : exec (op.instr imm b a) s = .next (s.cmdError .busy) := by
  cases op <;> exact congrArg Host.Outcome.next (State.whenIdle_busy h _)

/-- Where `BUSY` = 0, a word with a reserved field set is rejected with RESERVED_FIELD. -/
theorem exec_regWrite_cmd_of_reserved {op : CmdOp} {s : State} {v : Word} (hidle : s.busy = false)
    (hop : fieldOp v = op.code) (hres : reservedClear op v = false) :
    exec (.regWrite 0x18#6 v) s = .next (s.cmdError .reservedField) :=
  exec_regWrite_cmd_of_decodeOp_error hidle (decodeOp_of_reserved hop hres)

section Idle
variable {s : State} (hidle : s.busy = false)
include hidle

/-- Where `BUSY` = 0, a command whose arguments are out of range is rejected with INVALID_ARG. -/
theorem exec_instr_of_argsOk_eq_false (op : CmdOp) (imm : Half) {b a : Byte}
    (hargs : op.argsOk b a = false) :
    exec (op.instr imm b a) s = .next (s.cmdError .invalidArg) := by
  have hrej (f : State → State) :
      s.whenIdle (fun s => s.whenArgs (op.argsOk b a) f) = s.cmdError .invalidArg := by
    rw [State.whenIdle_idle hidle, State.whenArgs_bad hargs]
  cases op with
  | accSetbit | accInsert | accCarry => exact congrArg Host.Outcome.next (hrej _)
  | nop | encrypt | mash | rekey | accClear | cntInc => cases hargs

/-! The effect of an accepted command. -/

theorem exec_nop_of_idle : exec .nop s = .next (s.setLastop CmdOp.nop.code) :=
  congrArg Host.Outcome.next (State.whenIdle_idle hidle _)

theorem exec_accClear_of_idle :
    exec .accClear s =
      .next (((s.setCount 0#64).setBits 0#64).setLastop CmdOp.accClear.code) :=
  congrArg Host.Outcome.next (State.whenIdle_idle hidle _)

theorem exec_cntInc_of_idle :
    exec .cntInc s = .next ((s.setCount (s.count + 1#64)).setLastop CmdOp.cntInc.code) :=
  congrArg Host.Outcome.next (State.whenIdle_idle hidle _)

theorem exec_accSetbit_of_idle {a : Byte} (ha : a.toNat ≤ 63) :
    exec (.accSetbit a) s =
      .next ((s.setBits (s.bits ||| setbitOperand a)).setLastop CmdOp.accSetbit.code) := by
  rw [exec, execAccSetbit, State.whenIdle_idle hidle, State.whenArgs_ok (setbitArgOk_iff.mpr ha)]

theorem exec_accInsert_of_idle {imm : Half} {b a : Byte} (ha : a.toNat ≤ 64) (hb : b.toNat ≤ 32) :
    exec (.accInsert imm b a) s =
      .next ((s.setBits (s.bits ||| insertOperand imm b a)).setLastop CmdOp.accInsert.code) := by
  rw [exec, execAccInsert, State.whenIdle_idle hidle,
    State.whenArgs_ok (shiftArgsOk_iff.mpr ⟨ha, hb⟩)]

theorem exec_accCarry_of_idle {imm : Half} {b a : Byte} (ha : a.toNat ≤ 64) (hb : b.toNat ≤ 32) :
    exec (.accCarry imm b a) s =
      .next ((s.setBits (carryOperand imm b a)).setLastop CmdOp.accCarry.code) := by
  rw [exec, execAccCarry, State.whenIdle_idle hidle,
    State.whenArgs_ok (shiftArgsOk_iff.mpr ⟨ha, hb⟩)]

end Idle

/-! The new value of `BITS`. -/

theorem or_setbitOperand_getLsbD (v : Word) (a : Byte) {j : Nat} (hj : j < 64) :
    (v ||| setbitOperand a).getLsbD j = (decide (j = a.toNat) || v.getLsbD j) := by
  rw [BitVec.getLsbD_or, setbitOperand_getLsbD, decide_eq_true hj, Bool.true_and, Bool.or_comm]

/-- Setting a bit that is 1 changes nothing (R69). -/
theorem or_setbitOperand_eq_self {v : Word} {a : Byte} (h : v.getLsbD a.toNat = true) :
    v ||| setbitOperand a = v := by
  apply BitVec.eq_of_getLsbD_eq
  intro j hj
  rw [or_setbitOperand_getLsbD v a hj]
  by_cases hja : j = a.toNat
  · simp [hja, h]
  · simp [hja]

theorem or_insertOperand_toNat (v : Word) (imm : Half) (b a : Byte) :
    (v ||| insertOperand imm b a).toNat =
      v.toNat ||| (((imm.toNat % 2 ^ b.toNat) * 2 ^ a.toNat) % 2 ^ 64) := by
  rw [BitVec.toNat_or, insertOperand_toNat]

theorem or_insertOperand_getLsbD (v : Word) (imm : Half) (b a : Byte) {j : Nat} (hj : j < 64) :
    (v ||| insertOperand imm b a).getLsbD j =
      (v.getLsbD j ||
        (decide (a.toNat ≤ j) && decide (j - a.toNat < b.toNat) && imm.getLsbD (j - a.toNat))) := by
  rw [BitVec.getLsbD_or, insertOperand_getLsbD, decide_eq_true hj, Bool.true_and, Bool.and_assoc]

/-- Shifting out all of the path bits leaves 0 (R71). -/
theorem carryOperand_eq_zero {imm : Half} {b a : Byte} (h : b.toNat ≤ a.toNat) :
    carryOperand imm b a = 0#64 := by
  have hlt : imm.toNat % 2 ^ b.toNat < 2 ^ a.toNat :=
    (Nat.mod_lt _ (Nat.two_pow_pos _)).trans_le (Nat.pow_le_pow_right (by decide) h)
  apply BitVec.eq_of_toNat_eq
  rw [carryOperand_toNat, Nat.div_eq_of_lt hlt]
  rfl

/-! The statements. -/

/-- Settles O24: the accepted command ors in `setbitOperand`, whose only bit is `A`. -/
theorem accSetbitSetsOneBit : Obligations.AccSetbitSetsOneBit := by
  refine ⟨fun a ha => ?_, fun s a hidle ha => ?_, fun s a hidle ha => ?_, fun s a hbusy => ?_,
    fun s v hidle hop hv => ?_, fun s t a hidle ha hbit ht => ?_⟩
  · exact (congrArg decodeCmd (asmSetbitWord_eq_cmdWord a)).trans
      (decodeCmd_cmdWord nofun (fun _ => ⟨rfl, rfl⟩) (setbitArgOk_iff.mpr ha))
  · exact ⟨_, exec_accSetbit_of_idle hidle ha, fun j hj => or_setbitOperand_getLsbD s.bits a hj⟩
  · exact exec_instr_of_argsOk_eq_false hidle .accSetbit 0#32 (b := 0#8)
      (setbitArgOk_eq_false_iff.mpr ha)
  · exact exec_instr_of_busy .accSetbit 0#32 0#8 a hbusy
  · exact exec_regWrite_cmd_of_reserved (op := .accSetbit) hidle hop
      (reservedClear_of_ushiftRight_sixteen rfl hv)
  · rw [exec_accSetbit_of_idle hidle ha] at ht
    cases ht
    exact or_setbitOperand_eq_self hbit

/-- Settles O25: the accepted command ors in `insertOperand`, the path bits times `2 ^ A` mod `2 ^ 64`. -/
theorem accInsertOrsPathBits : Obligations.AccInsertOrsPathBits := by
  refine ⟨fun imm b a ha hb => ?_, fun s imm b a hidle ha hb => ?_,
    fun s imm b a hidle hargs => ?_, fun s imm b a hbusy => ?_, fun s v hidle hop hrsv => ?_⟩
  · exact (congrArg decodeCmd (asmShiftWord_eq_cmdWord .accInsert imm b a)).trans
      (decodeCmd_cmdWord nofun nofun (shiftArgsOk_iff.mpr ⟨ha, hb⟩))
  · exact ⟨_, exec_accInsert_of_idle hidle ha hb, or_insertOperand_toNat s.bits imm b a,
      fun j hj => or_insertOperand_getLsbD s.bits imm b a hj⟩
  · exact exec_instr_of_argsOk_eq_false hidle .accInsert imm (shiftArgsOk_eq_false_iff.mpr hargs)
  · exact exec_instr_of_busy .accInsert imm b a hbusy
  · exact exec_regWrite_cmd_of_reserved (op := .accInsert) hidle hop
      (reservedClear_eq_false_iff.mpr (.inl hrsv))

/-- Settles O26: the accepted command loads `carryOperand`, the path bits divided by `2 ^ A`; as `B` is at most 32, both zero cases are `B ≤ A`. -/
theorem accCarryLoadsShiftedBits : Obligations.AccCarryLoadsShiftedBits := by
  refine ⟨fun imm b a ha hb => ?_, fun s imm b a hidle ha hb => ?_,
    fun s imm b a hidle hargs => ?_, fun s imm b a hbusy => ?_, fun s v hidle hop hrsv => ?_⟩
  · exact (congrArg decodeCmd (asmShiftWord_eq_cmdWord .accCarry imm b a)).trans
      (decodeCmd_cmdWord nofun nofun (shiftArgsOk_iff.mpr ⟨ha, hb⟩))
  · exact ⟨_, exec_accCarry_of_idle hidle ha hb, carryOperand_toNat imm b a,
      carryOperand_eq_zero, fun h32 => carryOperand_eq_zero (hb.trans h32)⟩
  · exact exec_instr_of_argsOk_eq_false hidle .accCarry imm (shiftArgsOk_eq_false_iff.mpr hargs)
  · exact exec_instr_of_busy .accCarry imm b a hbusy
  · exact exec_regWrite_cmd_of_reserved (op := .accCarry) hidle hop
      (reservedClear_eq_false_iff.mpr (.inl hrsv))

/-- Settles O22: the accepted NOP is `State.setLastop`, and the rejections are those of every command. -/
theorem nopWritesOnlyLastop : Obligations.NopWritesOnlyLastop := by
  refine ⟨by decide, fun s hidle => exec_nop_of_idle hidle, fun s hbusy => ?_,
    fun s v hidle hop hv => ?_, fun s hidle hdone herr hcode => ?_⟩
  · exact ⟨_, exec_instr_of_busy .nop 0#32 0#8 0#8 hbusy, rfl, State.cmdError_err s .busy⟩
  · exact exec_regWrite_cmd_of_reserved (op := .nop) hidle hop
      (reservedClear_of_ushiftRight_eight rfl rfl hv)
  · refine ⟨_, exec_nop_of_idle hidle, ?_⟩
    simp [statusWord, hidle, hdone, herr, hcode, errNumber, CmdOp.code]

/-- Settles O23: the accepted ACC_CLEAR writes constants, so doing it again writes the same. -/
theorem accClearZeroesMixerInputs : Obligations.AccClearZeroesMixerInputs := by
  refine ⟨by decide, fun s hidle => exec_accClear_of_idle hidle,
    fun s hbusy => exec_instr_of_busy .accClear 0#32 0#8 0#8 hbusy,
    fun s v hidle hop hv => ?_, fun s t hidle ht => ?_⟩
  · exact exec_regWrite_cmd_of_reserved (op := .accClear) hidle hop
      (reservedClear_of_ushiftRight_eight rfl rfl hv)
  · rw [exec_accClear_of_idle hidle] at ht
    cases ht
    exact exec_accClear_of_idle hidle

/-- Settles O27: the accepted CNT_INC adds 1 in `BitVec 64`, which is addition mod `2 ^ 64`. -/
theorem cntIncAddsOneAndWraps : Obligations.CntIncAddsOneAndWraps := by
  refine ⟨by decide, fun s hidle => ?_, fun s t hidle hcount ht => ?_,
    fun s hbusy => exec_instr_of_busy .cntInc 0#32 0#8 0#8 hbusy, fun s v hidle hop hv => ?_⟩
  · exact ⟨_, exec_cntInc_of_idle hidle, BitVec.toNat_add s.count 1#64⟩
  · rw [exec_cntInc_of_idle hidle, hcount] at ht
    cases ht
    rfl
  · exact exec_regWrite_cmd_of_reserved (op := .cntInc) hidle hop
      (reservedClear_of_ushiftRight_eight rfl rfl hv)

end Sys2Proof.Machine
end

section
/-! The statements of 60_exceptions.md: which check a write to `CMD` takes (R76), what a rejection records (R77) and leaves alone (R78), the `irq` output (R80), and the order of events in the completion cycle (R81). -/

namespace Sys2Proof

/-! The opcode conditions of R76, over the numbers R44 gives the commands. -/

theorem mem_assigned_iff {n : Byte} :
    n ∈ [0x00#8, 0x01#8, 0x02#8, 0x03#8, 0x10#8, 0x11#8, 0x12#8, 0x13#8, 0x14#8] ↔
      ∃ op : CmdOp, n = op.code := by
  constructor
  · intro h
    obtain ⟨op, -, rfl⟩ := List.mem_map.mp (show n ∈ CmdOp.all.map CmdOp.code from h)
    exact ⟨op, rfl⟩
  · rintro ⟨op, rfl⟩
    cases op <;> decide

theorem CmdOp.code_notMem_iff_usesA {op : CmdOp} :
    op.code ∉ [0x11#8, 0x12#8, 0x13#8] ↔ op.usesA = false := by
  cases op <;> decide

theorem CmdOp.code_notMem_iff_usesBImm {op : CmdOp} :
    op.code ∉ [0x12#8, 0x13#8] ↔ op.usesBImm = false := by
  cases op <;> decide

/-- R45, as the three checks of R76 put it. -/
theorem reservedClear_eq_false_iff_code {op : CmdOp} {v : Word} :
    reservedClear op v = false ↔
      fieldRsv v ≠ 0#8 ∨ (op.code ∉ [0x11#8, 0x12#8, 0x13#8] ∧ fieldA v ≠ 0#8) ∨
        (op.code ∉ [0x12#8, 0x13#8] ∧ (fieldB v ≠ 0#8 ∨ fieldImm v ≠ 0#32)) := by
  rw [reservedClear_eq_false_iff, CmdOp.code_notMem_iff_usesA, CmdOp.code_notMem_iff_usesBImm]

/-- R44's ranges, as the last two checks of R76 put them. -/
theorem CmdOp.argsOk_eq_false_iff {op : CmdOp} {b a : Byte} :
    op.argsOk b a = false ↔
      (op.code = 0x11#8 ∧ 63 < a.toNat) ∨
        (op.code ∈ [0x12#8, 0x13#8] ∧ (64 < a.toNat ∨ 32 < b.toNat)) := by
  cases op with
  | accSetbit => simp [CmdOp.argsOk, CmdOp.code, setbitArgOk_eq_false_iff]
  | accInsert | accCarry => simp [CmdOp.argsOk, CmdOp.code, shiftArgsOk_eq_false_iff]
  | nop | encrypt | mash | rekey | accClear | cntInc => simp [CmdOp.argsOk, CmdOp.code]

/-- The rejections of R44's decoder, and the check that each names. -/
theorem decodeCmd_error_cases {v : Word} {c : ErrCode} (h : decodeCmd v = .error c) :
    decodeOp v = .error c ∨
      (c = .invalidArg ∧ ∃ op : CmdOp, decodeOp v = .ok op ∧
        op.argsOk (fieldB v) (fieldA v) = false) := by
  unfold decodeCmd at h
  split at h
  · rename_i hop
    cases h
    exact .inl hop
  · rename_i op hop
    split at h
    · cases h
    · rename_i hargs
      cases h
      exact .inr ⟨rfl, op, hop, by simpa using hargs⟩

/-- The decoder names a reason to reject, and never `BUSY`, which is a matter of the state (R76). -/
theorem decodeCmd_error_code {v : Word} {c : ErrCode} (h : decodeCmd v = .error c) :
    c ≠ .none ∧ c ≠ .busy := by
  obtain hop | ⟨rfl, -⟩ := decodeCmd_error_cases h
  · obtain ⟨rfl, -⟩ | ⟨rfl, -⟩ := decodeOp_error_cases hop <;> decide
  · decide

end Sys2Proof

namespace Sys2Proof.Machine

/-! A write to `CMD`, by what `BUSY` and the decoder say of it. -/

theorem exec_regWrite_cmd_of_busy {s : State} (hbusy : s.busy = true) (v : Word) :
    exec (.regWrite 0x18#6 v) s = .next (s.cmdError .busy) := by
  simp [exec_regWrite_cmd, command, hbusy]

section Idle
variable {s : State} (hidle : s.busy = false)
include hidle

theorem exec_regWrite_cmd_of_decodeOp_ok {v : Word} {op : CmdOp} (h : decodeOp v = .ok op) :
    exec (.regWrite 0x18#6 v) s = exec (op.instr (fieldImm v) (fieldB v) (fieldA v)) s := by
  simp [exec_regWrite_cmd, command, hidle, h, runCmd_eq_exec]

/-- A word that decodes to a command is that command. -/
theorem exec_regWrite_cmd_of_decodeCmd_ok {v : Word} {i : Instr} (h : decodeCmd v = .ok i) :
    exec (.regWrite 0x18#6 v) s = exec i s := by
  obtain ⟨op, hop, hres, -, rfl⟩ := decodeCmd_eq_ok_iff.mp h
  exact exec_regWrite_cmd_of_decodeOp_ok hidle (decodeOp_eq_ok_iff.mpr ⟨hop, hres⟩)

/-- A word that decodes to none is rejected with the decoder's code, the range checks included, which the model leaves to the command itself. -/
theorem exec_regWrite_cmd_of_decodeCmd_error {v : Word} {c : ErrCode}
    (h : decodeCmd v = .error c) : exec (.regWrite 0x18#6 v) s = .next (s.cmdError c) := by
  obtain hop | ⟨rfl, op, hop, hargs⟩ := decodeCmd_error_cases h
  · exact exec_regWrite_cmd_of_decodeOp_error hidle hop
  · rw [exec_regWrite_cmd_of_decodeOp_ok hidle hop]
    exact exec_instr_of_argsOk_eq_false hidle op _ hargs

end Idle

/-! What every accepted command has in common. -/

/-- The flags and `OUT` after an accepted command with the opcode `op`: it is recorded as the last one accepted, and no error and no result is (R22, R73, R59). -/
structure Accepted (op : Byte) (s t : State) : Prop where
  lastop : t.lastop = op
  err : t.err = s.err
  errcode : t.errcode = s.errcode
  done : t.done = s.done
  out : t.out = s.out

theorem Accepted.immediate (s : State) (op : Byte) (count bits : Word) :
    Accepted op s (((s.setCount count).setBits bits).setLastop op) :=
  ⟨rfl, rfl, rfl, rfl, rfl⟩

theorem Accepted.issue (s : State) (op : Byte) (b : Quad) : Accepted op s (s.issue op b) :=
  ⟨rfl, rfl, rfl, rfl, rfl⟩

section Idle
variable {s : State} (hidle : s.busy = false)
include hidle

/-- Where `BUSY` = 0, a command with its arguments in range is accepted. -/
theorem exec_instr_accepted (op : CmdOp) (imm : Half) {b a : Byte} (hargs : op.argsOk b a = true) :
    ∃ t, exec (op.instr imm b a) s = .next t ∧ Accepted op.code s t := by
  cases op with
  | nop => exact ⟨_, exec_nop_of_idle hidle, .immediate s _ s.count s.bits⟩
  | encrypt => exact ⟨_, exec_encrypt_idle hidle, .issue ..⟩
  | mash => exact ⟨_, exec_mash_idle hidle, .issue ..⟩
  | rekey => exact ⟨_, exec_rekey_idle hidle, .issue ..⟩
  | accClear => exact ⟨_, exec_accClear_of_idle hidle, .immediate ..⟩
  | accSetbit =>
    exact ⟨_, exec_accSetbit_of_idle hidle (setbitArgOk_iff.mp hargs), .immediate s _ s.count _⟩
  | accInsert =>
    obtain ⟨ha, hb⟩ := shiftArgsOk_iff.mp hargs
    exact ⟨_, exec_accInsert_of_idle hidle ha hb, .immediate s _ s.count _⟩
  | accCarry =>
    obtain ⟨ha, hb⟩ := shiftArgsOk_iff.mp hargs
    exact ⟨_, exec_accCarry_of_idle hidle ha hb, .immediate s _ s.count _⟩
  | cntInc => exact ⟨_, exec_cntInc_of_idle hidle, .immediate s _ (s.count + 1#64) s.bits⟩

/-- Where `BUSY` = 0, what a word decodes to is accepted, whatever `ERR` is (R77). -/
theorem exec_accepted_of_decodeCmd_ok {v : Word} {i : Instr} (h : decodeCmd v = .ok i) :
    ∃ t, exec i s = .next t ∧ Accepted (fieldOp v) s t := by
  obtain ⟨op, hop, -, hargs, rfl⟩ := decodeCmd_eq_ok_iff.mp h
  rw [hop]
  exact exec_instr_accepted hidle op _ hargs

end Idle

/-- A rejection as one update: of `ERR` and `ERRCODE`, the latter kept if `ERR` was 1. -/
theorem State.cmdError_eq (s : State) (c : ErrCode) :
    s.cmdError c = { s with err := true, errcode := if s.err then s.errcode else c } := by
  cases herr : s.err
  · simp [State.cmdError_of_clear herr]
  · simp [State.cmdError_of_err herr, ← herr]

/-- Settles O17: after BUSY, the chain is R44's decoder check by check; the checks with one code are one condition on the command. -/
theorem commandTakesFirstCheck : Obligations.CommandTakesFirstCheck := by
  refine ⟨fun s v n a b rsv imm hn ha hb hrsv himm => ?_, fun s hidle => ?_⟩
  · obtain rfl : n = fieldOp v := hn
    obtain rfl : a = fieldA v := ha
    obtain rfl : b = fieldB v := hb
    obtain rfl : rsv = fieldRsv v := hrsv
    obtain rfl : imm = fieldImm v := himm
    -- One check for RESERVED_FIELD and one for INVALID_ARG.
    simp only [← ite_or]
    by_cases hbusy : s.busy = true
    · rw [if_pos hbusy]
      exact exec_regWrite_cmd_of_busy hbusy v
    have hidle : s.busy = false := eq_false_of_ne_true hbusy
    rw [if_neg hbusy]
    by_cases hassigned : ∃ op : CmdOp, fieldOp v = op.code
    case neg =>
      rw [if_pos (mt mem_assigned_iff.mp hassigned)]
      exact exec_regWrite_cmd_of_decodeOp_error hidle
        (decodeOp_of_unassigned (not_exists.mp hassigned))
    obtain ⟨op, hop⟩ := hassigned
    rw [if_neg (not_not.mpr (mem_assigned_iff.mpr ⟨op, hop⟩)), hop]
    by_cases hres : reservedClear op v = false
    · rw [if_pos (reservedClear_eq_false_iff_code.mp hres)]
      exact exec_regWrite_cmd_of_reserved hidle hop hres
    rw [if_neg (mt reservedClear_eq_false_iff_code.mpr hres),
      exec_regWrite_cmd_of_decodeOp_ok hidle
        (decodeOp_eq_ok_iff.mpr ⟨hop, eq_true_of_ne_false hres⟩)]
    by_cases hargs : op.argsOk (fieldB v) (fieldA v) = false
    · rw [if_pos (CmdOp.argsOk_eq_false_iff.mp hargs)]
      exact exec_instr_of_argsOk_eq_false hidle op _ hargs
    rw [if_neg (mt CmdOp.argsOk_eq_false_iff.mpr hargs)]
    cases op <;> rfl
  · exact exec_regWrite_cmd_of_reserved (op := .accSetbit) hidle (by decide) (by decide)

/-- Settles O20: while BUSY = 1 the write is rejected with BUSY; else the decoder either names a code, which is recorded, or the command, which is accepted. -/
theorem rejectionsArePrecise : Obligations.RejectionsArePrecise := by
  intro s v
  by_cases hbusy : s.busy = true
  · exact ⟨_, exec_regWrite_cmd_of_busy hbusy v, .inl ⟨.busy, by decide, s.cmdError_eq .busy⟩⟩
  · have hidle : s.busy = false := eq_false_of_ne_true hbusy
    cases hd : decodeCmd v with
    | error c =>
      exact ⟨_, exec_regWrite_cmd_of_decodeCmd_error hidle hd,
        .inl ⟨c, (decodeCmd_error_code hd).1, s.cmdError_eq c⟩⟩
    | ok i =>
      obtain ⟨t, ht, hacc⟩ := exec_accepted_of_decodeCmd_ok hidle hd
      exact ⟨t, (exec_regWrite_cmd_of_decodeCmd_ok hidle hd).trans ht,
        .inr ⟨hidle, hacc.lastop, hacc.err, hacc.errcode, i, rfl, ht⟩⟩

/-- Settles O16: recording is `State.cmdError`, and acceptance asks only for BUSY = 0 and a word that decodes. -/
theorem rejectionRecordsFirstCode : Obligations.RejectionRecordsFirstCode := by
  refine ⟨fun s c herr => State.cmdError_of_clear herr c,
    fun s c herr => State.cmdError_of_err herr c, fun s v i hidle hdec => ?_⟩
  obtain ⟨t, ht, hacc⟩ := exec_accepted_of_decodeCmd_ok hidle hdec
  exact ⟨t, (exec_regWrite_cmd_of_decodeCmd_ok hidle hdec).trans ht, hacc.lastop, hacc.err,
    hacc.errcode⟩

/-! The writes that clear a source of `irq` or its enable (R79, R80). -/

theorem exec_regWrite_status (v : Word) (s : State) :
    exec (.regWrite 0x19#6 v) s = .next (s.writeStatus v) :=
  exec_regWrite (by decide) v s

theorem exec_regWrite_ctrl (v : Word) (s : State) :
    exec (.regWrite 0x1A#6 v) s = .next (s.setCtrl v) :=
  exec_regWrite (by decide) v s

theorem irq_eq_true_iff {s : State} :
    irq s = true ↔ (s.done = true ∧ s.doneIe = true) ∨ (s.err = true ∧ s.errIe = true) := by
  simp [irq]

/-- Settles O40: the writes make both sources 0, or both enables. -/
theorem irqFollowsEnabledSources : Obligations.IrqFollowsEnabledSources := by
  refine ⟨fun s => irq_eq_true_iff, rfl, fun s => ⟨_, exec_regWrite_status _ s, ?_⟩,
    fun s => ⟨_, exec_regWrite_ctrl _ s, ?_⟩⟩
  · simp [irq, State.writeStatus_eq]
  · simp [irq]

/-! The completion cycle (R81). -/

/-- The state the completion leaves to the host's transaction of the same cycle (R32, R60). -/
def State.completed (s : State) : State :=
  s.beginCycle.complete (CipherCore.encrypt s.engKey s.engIn)

/-- In the completion cycle a write acts on the state the completion left. -/
theorem step_of_completing_write {s : State} {a : Addr} {v : Word} (hc : Completing s)
    (hw : Writes s a v) : step s = exec (.regWrite a v) s.completed := by
  obtain ⟨hbusy, hrem⟩ := hc
  obtain ⟨hrst, htxn⟩ := hw
  have hphase : s.beginCycle.enginePhase = s.completed :=
    State.enginePhase_last hbusy (by simp [hrem])
  simp [step, cycle, hrst, htxn, transact, decodeBus, hphase]

/-- After the completion of a REKEY, a write to a word of `KEY` replaces that word of the result. -/
theorem exec_regWrite_key_completed {s : State} (hop : s.engOp = CmdOp.rekey.code) (i : Fin 4)
    (v : Word) :
    exec (.regWrite (BitVec.ofNat 6 i.val) v) s.completed =
      .next (s.completed.setKey (quadSet (CipherCore.encrypt s.engKey s.engIn) i v)) := by
  have hcmd : BitVec.ofNat 6 i.val ≠ 0x18#6 := by
    simp [← regAt_eq_cmd_iff, regAt_key]
  have hkey : s.completed.key = CipherCore.encrypt s.engKey s.engIn := if_pos hop
  rw [exec_regWrite hcmd, regAt_key, State.writeReg, hkey]

/-- Settles O39: the write acts on `State.completed`, where BUSY = 0 and DONE = 1. -/
theorem completionPrecedesTransaction : Obligations.CompletionPrecedesTransaction := by
  intro s hc
  have hidle : s.completed.busy = false := rfl
  refine ⟨fun v i hw hdec => ?_, fun v hw hbit => ?_, fun v c hw hdec => ?_,
    fun i v hop hw => ?_⟩
  · obtain ⟨t, ht, hacc⟩ := exec_accepted_of_decodeCmd_ok hidle hdec
    refine ⟨t, ?_, hacc.lastop, hacc.done, hacc.out, hacc.err⟩
    rw [step_of_completing_write hc hw, exec_regWrite_cmd_of_decodeCmd_ok hidle hdec, ht]
  · refine ⟨s.completed.writeStatus v, ?_, ?_⟩
    · rw [step_of_completing_write hc hw, exec_regWrite_status]
    · simp [State.writeStatus_eq, hbit, irq, State.completed]
  · refine ⟨s.completed.cmdError c, ?_, ?_⟩
    · rw [step_of_completing_write hc hw, exec_regWrite_cmd_of_decodeCmd_error hidle hdec]
    · exact ⟨State.cmdError_done _ c, State.cmdError_err _ c, State.cmdError_busy _ c,
        (decodeCmd_error_code hdec).2, State.cmdError_errcode _ c, State.cmdError_out _ c⟩
  · refine ⟨_, (step_of_completing_write hc hw).trans (exec_regWrite_key_completed hop i v), ?_⟩
    exact ⟨quadGet_quadSet_self _ i v, fun j hj => quadGet_quadSet_ne _ v hj⟩

end Sys2Proof.Machine
end

section
/-! The statement of 70_reset_and_hazards.md about a reset while an engine command is in flight (R86). -/

namespace Sys2Proof.Machine

/-- A cycle with `rst` = 1 performs neither phase of a cycle (R85). -/
theorem step_of_rst {s : State} (h : s.input.rst = true) :
    step s = .next (s.beginCycle.resetCycle s.input.txn) := by
  obtain ⟨-, hstep⟩ | ⟨hrst, -⟩ := step_cases s
  · exact hstep
  · simp [h] at hrst

@[simp] theorem State.resetCycle_busy (s : State) (t : Option Txn) :
    (s.resetCycle t).busy = false := rfl

/-- `ID` is read from no state (R24). -/
theorem readReg_id (s : State) : readReg s 0x1B#6 = idValue := rfl

/-- Settles O43: the state after the reset cycle is idle, so phase (a) has nothing to complete; the fields are `State.resetFor`'s by definition. -/
theorem resetAbandonsCommandInFlight : Obligations.ResetAbandonsCommandInFlight := by
  intro s hrst
  have hphase := State.enginePhase_idle (s.beginCycle.resetCycle_busy s.input.txn)
  exact ⟨_, step_of_rst hrst, rfl, rfl, rfl, rfl, rfl, rfl, rfl, rfl, rfl, hphase,
    (readReg_id _).trans (readReg_id s).symm⟩

end Sys2Proof.Machine
end

section
/-! The statements about legal states (10_state.md sections 4 and 5): the state after reset is legal (R29), and every step keeps it so. -/

namespace Sys2Proof.Machine

theorem legal_resetFor (c : Config.Instance) : Legal (State.resetFor c) where
  rem_busy := nofun
  rem_idle _ := rfl
  errcode_none := ⟨fun _ => rfl, fun _ => rfl⟩
  lastop_busy := nofun
  lastop_assigned := ⟨.nop, rfl⟩
  mixer_block := nofun

/-- Settles O45: the reset values are those of `State.resetFor`, which are legal for every latency. -/
theorem resetStateIsLegal : Obligations.ResetStateIsLegal :=
  legal_resetFor _

theorem isEngineOp.assigned {op : Byte} (h : isEngineOp op) : ∃ o : CmdOp, op = o.code := by
  obtain rfl | rfl | rfl := h
  · exact ⟨.encrypt, rfl⟩
  · exact ⟨.mash, rfl⟩
  · exact ⟨.rekey, rfl⟩

namespace Legal
variable {s : State}

theorem beginCycle (h : Legal s) : Legal s.beginCycle :=
  { h with }

/-- In a legal state a command with no cycle left after this one is in its last (R60). -/
theorem completing (h : Legal s) (hbusy : s.busy = true) (hlast : s.rem - 1 = 0) :
    Completing s := by
  have hrem := (h.rem_busy hbusy).1
  exact ⟨hbusy, by omega⟩

/-- A command not yet in its last cycle keeps a `REM` of at least 1. -/
theorem setRem (h : Legal s) (hbusy : s.busy = true) (hrem : s.rem - 1 ≠ 0) :
    Legal (s.setRem (s.rem - 1)) := by
  obtain ⟨-, hmax⟩ := h.rem_busy hbusy
  have hrange : 1 ≤ s.rem - 1 ∧ s.rem - 1 ≤ s.inst.ccLatency := by omega
  exact { h with
    rem_busy := fun _ => hrange
    rem_idle := fun hidle => absurd (hbusy.symm.trans hidle) (by decide) }

theorem complete (h : Legal s) (r : Quad) : Legal (s.complete r) :=
  { h with
    rem_busy := nofun
    rem_idle := fun _ => rfl
    lastop_busy := nofun
    mixer_block := nofun }

theorem enginePhase (h : Legal s) : Legal s.enginePhase := by
  obtain ⟨-, he⟩ | ⟨hbusy, hrem, he⟩ | ⟨-, -, he⟩ := s.enginePhase_cases
  · rwa [he]
  · rw [he]
    exact h.setRem hbusy hrem
  · rw [he]
    exact h.complete _

/-- The recorded code is set and cleared together with `ERR` (R21, R77). -/
theorem writeStatus (h : Legal s) (v : Word) : Legal (s.writeStatus v) := by
  rw [State.writeStatus_eq]
  refine { h with errcode_none := ?_ }
  cases hbit : v.getLsbD 2
  · simpa [hbit] using h.errcode_none
  · simp

theorem writeReg (h : Legal s) (r : RegName) (v : Word) : Legal (s.writeReg r v) := by
  cases r with
  | status => exact h.writeStatus v
  | key | blk | count | bits | ctrl => exact { h with }
  | out | out32 | cmd | id | reserved => exact h

theorem cmdError (h : Legal s) {c : ErrCode} (hc : c ≠ .none) : Legal (s.cmdError c) := by
  cases herr : s.err with
  | true => rwa [State.cmdError_of_err herr]
  | false =>
    rw [State.cmdError_of_clear herr]
    exact { h with errcode_none := by simp [hc] }

/-- An immediate command is accepted only where `BUSY` = 0, so its `LASTOP` claims nothing about the engine. -/
theorem immediate (h : Legal s) (hidle : s.busy = false) (op : CmdOp) (count bits : Word) :
    Legal (((s.setCount count).setBits bits).setLastop op.code) :=
  { h with
    lastop_busy := fun hbusy => absurd (hbusy.symm.trans hidle) (by decide)
    lastop_assigned := ⟨op, rfl⟩ }

theorem issue (h : Legal s) {op : Byte} {b : Quad} (hop : isEngineOp op)
    (hb : op ≠ CmdOp.encrypt.code → b.w2 = 0#64 ∧ b.w3 = 0#64) : Legal (s.issue op b) :=
  { h with
    rem_busy := fun _ => ⟨Nat.le_add_left 1 _, le_rfl⟩
    rem_idle := nofun
    lastop_busy := fun _ => ⟨rfl, hop⟩
    lastop_assigned := hop.assigned
    mixer_block := fun _ => hb }

theorem effect {t : State} (h : Legal s) (e : Effect s t) : Legal t := by
  cases e with
  | read v => exact { h with }
  | write r v => exact h.writeReg r v
  | rejected c hc => exact h.cmdError hc
  | immediate op count bits hidle => exact h.immediate hidle op count bits
  | issued op b hidle hop hb => exact h.issue hop hb

end Legal

theorem legal_resetCycle (s : State) (x : Option Txn) : Legal (s.resetCycle x) :=
  have h := legal_resetFor s.inst
  { h with }

/-- Settles O46: a reset cycle leads to a legal state from any; phase (a) and each effect of a transaction keep a state legal. -/
theorem everyStepKeepsLegality : Obligations.EveryStepKeepsLegality := by
  intro s t hlegal hstep
  obtain ⟨-, hreset⟩ | ⟨-, u, hu, heffect, -⟩ := step_cases s
  · rw [hreset] at hstep
    cases hstep
    exact legal_resetCycle _ _
  · rw [hu] at hstep
    cases hstep
    exact hlegal.beginCycle.enginePhase.effect heffect

/-- Settles O44: `step_cases` names a next state in every case; neither a reset, nor phase (a), nor a transaction writes CC_LATENCY. -/
theorem everyStepAnswersNext : Obligations.EveryStepAnswersNext := by
  intro s
  obtain ⟨-, hreset⟩ | ⟨-, t, ht, heffect, -⟩ := step_cases s
  · exact ⟨_, hreset, rfl⟩
  · exact ⟨t, ht, heffect.inst_eq.trans (by simp)⟩

end Sys2Proof.Machine
end

section
/-! The statements of 30_encoding.md about decoding and encoding: sections 1 to 3, and the assembler of section 5. -/

namespace Sys2Proof

/-! Decode and encode agree (R41 to R44). -/

/-- The fields that the command does not use are 0 (R45). -/
def CmdOp.UnusedZero (op : CmdOp) (imm : Half) (b a : Byte) : Prop :=
  (op.usesA = false → a = 0#8) ∧ (op.usesBImm = false → b = 0#8 ∧ imm = 0#32)

theorem CmdOp.unusedZero_zero (op : CmdOp) : op.UnusedZero 0 0 0 :=
  ⟨fun _ => rfl, fun _ => ⟨rfl, rfl⟩⟩

/-- Every instruction is a transaction or an opcode with its fields, the unused ones 0. -/
theorem Instr.transaction_or_command (i : Instr) :
    ((∃ a, i = .regRead a) ∨ ∃ a v, i = .regWrite a v) ∨
      ∃ (op : CmdOp) (imm : Half) (b a : Byte), op.UnusedZero imm b a ∧ i = op.instr imm b a := by
  cases i with
  | regRead addr => exact .inl (.inl ⟨addr, rfl⟩)
  | regWrite addr v => exact .inl (.inr ⟨addr, v, rfl⟩)
  | nop => exact .inr ⟨.nop, 0, 0, 0, CmdOp.unusedZero_zero _, rfl⟩
  | encrypt => exact .inr ⟨.encrypt, 0, 0, 0, CmdOp.unusedZero_zero _, rfl⟩
  | mash => exact .inr ⟨.mash, 0, 0, 0, CmdOp.unusedZero_zero _, rfl⟩
  | rekey => exact .inr ⟨.rekey, 0, 0, 0, CmdOp.unusedZero_zero _, rfl⟩
  | accClear => exact .inr ⟨.accClear, 0, 0, 0, CmdOp.unusedZero_zero _, rfl⟩
  | accSetbit a => exact .inr ⟨.accSetbit, 0, 0, a, ⟨nofun, fun _ => ⟨rfl, rfl⟩⟩, rfl⟩
  | accInsert imm b a => exact .inr ⟨.accInsert, imm, b, a, ⟨nofun, nofun⟩, rfl⟩
  | accCarry imm b a => exact .inr ⟨.accCarry, imm, b, a, ⟨nofun, nofun⟩, rfl⟩
  | cntInc => exact .inr ⟨.cntInc, 0, 0, 0, CmdOp.unusedZero_zero _, rfl⟩

/-- A command is well formed exactly where the decoder's range check passes (R44). -/
theorem wellFormed_instr (op : CmdOp) (imm : Half) (b a : Byte) :
    (op.instr imm b a).wellFormed = op.argsOk b a := by
  cases op <;> rfl

theorem encode_instr {op : CmdOp} {imm : Half} {b a : Byte} (h : op.UnusedZero imm b a) :
    encode (op.instr imm b a) = cmdTxn (cmdWord op imm b a) := by
  obtain ⟨hA, hBImm⟩ := h
  cases op with
  | accInsert | accCarry => rfl
  | accSetbit =>
    obtain ⟨rfl, rfl⟩ := hBImm rfl
    rfl
  | nop | encrypt | mash | rekey | accClear | cntInc =>
    obtain rfl := hA rfl
    obtain ⟨rfl, rfl⟩ := hBImm rfl
    rfl

/-- A word that passes R45 is the command word of its own fields. -/
theorem cmdWord_fields {op : CmdOp} {v : Word} (hop : fieldOp v = op.code)
    (hrsv : fieldRsv v = 0#8) : cmdWord op (fieldImm v) (fieldB v) (fieldA v) = v := by
  apply word_ext <;> simp [hop, hrsv]

/-- Settles O50: a transaction's encoding is itself; a command's is the word of its fields, which decodes to them (`decodeCmd_cmdWord`). -/
theorem decodeOfEncodeIsIdentity : Obligations.DecodeOfEncodeIsIdentity := by
  intro i hwf
  obtain htxn | ⟨op, imm, b, a, hunused, rfl⟩ := i.transaction_or_command
  · refine .inl ⟨htxn, ?_⟩
    obtain ⟨a, rfl⟩ | ⟨a, v, rfl⟩ := htxn <;> rfl
  · rw [encode_instr hunused]
    rw [WellFormed, wellFormed_instr] at hwf
    obtain ⟨hA, hBImm⟩ := hunused
    exact .inr ⟨rfl, decodeCmd_cmdWord hA hBImm hwf⟩

/-- Settles O51: the checks that a decoded word has passed make its instruction well formed and leave nothing in the word but its fields. -/
theorem decodedCommandReencodes : Obligations.DecodedCommandReencodes := by
  intro v i hdec
  obtain ⟨op, hop, hres, hargs, rfl⟩ := decodeCmd_eq_ok_iff.mp hdec
  obtain ⟨hrsv, hunused⟩ := reservedClear_iff.mp hres
  refine ⟨(wellFormed_instr ..).trans hargs, ?_⟩
  rw [encode_instr hunused, cmdWord_fields hop hrsv]
  rfl

/-! The decoder against the match and mask table (R44). -/

section Mask
variable (v m : Word)

@[simp] theorem fieldOp_and : fieldOp (v &&& m) = fieldOp v &&& fieldOp m :=
  BitVec.extractLsb'_and

@[simp] theorem fieldA_and : fieldA (v &&& m) = fieldA v &&& fieldA m :=
  BitVec.extractLsb'_and

@[simp] theorem fieldB_and : fieldB (v &&& m) = fieldB v &&& fieldB m :=
  BitVec.extractLsb'_and

@[simp] theorem fieldRsv_and : fieldRsv (v &&& m) = fieldRsv v &&& fieldRsv m :=
  BitVec.extractLsb'_and

@[simp] theorem fieldImm_and : fieldImm (v &&& m) = fieldImm v &&& fieldImm m :=
  BitVec.extractLsb'_and

end Mask

/-- A mask covers `OP`, `RSV` and the fields that the command does not use. -/
theorem rowMask_fields (op : CmdOp) :
    fieldOp (Machine.rowMask op) = BitVec.allOnes 8 ∧
      fieldRsv (Machine.rowMask op) = BitVec.allOnes 8 ∧
      fieldA (Machine.rowMask op) = (if op.usesA then 0#8 else BitVec.allOnes 8) ∧
      fieldB (Machine.rowMask op) = (if op.usesBImm then 0#8 else BitVec.allOnes 8) ∧
      fieldImm (Machine.rowMask op) = (if op.usesBImm then 0#32 else BitVec.allOnes 32) := by
  cases op <;> decide

theorem rowMatch_eq_cmdWord (op : CmdOp) : Machine.rowMatch op = cmdWord op 0#32 0#8 0#8 := by
  cases op <;> decide

theorem word_eq_iff_fields {v w : Word} :
    v = w ↔ fieldOp v = fieldOp w ∧ fieldRsv v = fieldRsv w ∧ fieldA v = fieldA w ∧
      fieldB v = fieldB w ∧ fieldImm v = fieldImm w := by
  constructor
  · rintro rfl
    exact ⟨rfl, rfl, rfl, rfl, rfl⟩
  · rintro ⟨ho, hr, ha, hb, hi⟩
    exact word_ext ho ha hb hr hi

/-- Masked and compared with 0, a field is checked unless the command uses it. -/
theorem and_unusedMask_eq_zero_iff {w : Nat} (x : BitVec w) (used : Bool) :
    x &&& (if used then 0#w else BitVec.allOnes w) = 0#w ↔ (used = false → x = 0#w) := by
  cases used <;> simp only [BitVec.and_allOnes, BitVec.and_zero, reduceIte, Bool.false_eq_true,
    Bool.true_eq_false, forall_const, false_imp_iff]

/-- A row's mask and match check the opcode and R45 at once. -/
theorem and_rowMask_eq_iff {op : CmdOp} {v : Word} :
    v &&& Machine.rowMask op = Machine.rowMatch op ↔
      fieldOp v = op.code ∧ reservedClear op v = true := by
  obtain ⟨ho, hr, ha, hb, hi⟩ := rowMask_fields op
  rw [rowMatch_eq_cmdWord, word_eq_iff_fields, reservedClear_iff]
  simp only [fieldOp_and, fieldRsv_and, fieldA_and, fieldB_and, fieldImm_and, ho, hr, ha, hb, hi,
    fieldOp_cmdWord, fieldRsv_cmdWord, fieldA_cmdWord, fieldB_cmdWord, fieldImm_cmdWord,
    BitVec.and_allOnes, and_unusedMask_eq_zero_iff, imp_and]

theorem rowRange_iff_argsOk {op : CmdOp} {b a : Byte} :
    Machine.rowRange op b a ↔ op.argsOk b a = true := by
  cases op <;> simp [Machine.rowRange, CmdOp.argsOk, setbitArgOk_iff, shiftArgsOk_iff]

theorem decodeCmd_of_decodeOp_error {v : Word} {c : ErrCode} (h : decodeOp v = .error c) :
    decodeCmd v = .error c := by
  simp [decodeCmd, h]

theorem decodeCmd_of_argsOk_eq_false {v : Word} {op : CmdOp} (h : decodeOp v = .ok op)
    (hargs : op.argsOk (fieldB v) (fieldA v) = false) : decodeCmd v = .error .invalidArg := by
  simp [decodeCmd, h, hargs]

/-- Settles O52: the mask and match of a row say what `reservedClear` says, its ranges what `CmdOp.argsOk` says. -/
theorem decoderFollowsMatchMaskTable : Obligations.DecoderFollowsMatchMaskTable := by
  intro v
  refine ⟨fun hop => decodeCmd_of_decodeOp_error (decodeOp_of_unassigned hop),
    fun op hop => ⟨fun hmask => ?_, fun hmask hrange => ?_, fun hmask hrange => ?_⟩⟩
  · have hres : reservedClear op v = false :=
      eq_false_of_ne_true fun hres => hmask (and_rowMask_eq_iff.mpr ⟨hop, hres⟩)
    exact decodeCmd_of_decodeOp_error (decodeOp_of_reserved hop hres)
  · exact decodeCmd_of_argsOk_eq_false (decodeOp_eq_ok_iff.mpr (and_rowMask_eq_iff.mp hmask))
      (eq_false_of_ne_true (mt rowRange_iff_argsOk.mpr hrange))
  · obtain ⟨-, hres⟩ := and_rowMask_eq_iff.mp hmask
    exact decodeCmd_eq_ok_iff.mpr ⟨op, hop, hres, rowRange_iff_argsOk.mp hrange, rfl⟩

/-- Settles O53: the words are closed terms, so the decoder is evaluated on them. -/
theorem sampleWordsDecode : Obligations.SampleWordsDecode :=
  ⟨rfl, rfl, rfl, rfl, rfl, rfl, by decide, by decide⟩

end Sys2Proof

namespace Sys2Proof.Machine

/-! The assembler (R48). -/

theorem asmFits_iff {imm b a : Nat} :
    asmFits imm b a = true ↔ a < 2 ^ 8 ∧ b < 2 ^ 8 ∧ imm < 2 ^ 32 := by
  simp [asmFits, and_assoc]

theorem asmSetbitWord_of_lt {a : Nat} (ha : a < 2 ^ 8) :
    asmSetbitWord a = cmdWord .accSetbit 0#32 0#8 (BitVec.ofNat 8 a) := by
  rw [← asmSetbitWord_eq_cmdWord, BitVec.toNat_ofNat, Nat.mod_eq_of_lt ha]

theorem asmShiftWord_of_lt (op : CmdOp) {imm b a : Nat} (himm : imm < 2 ^ 32) (hb : b < 2 ^ 8)
    (ha : a < 2 ^ 8) :
    asmShiftWord op.code.toNat imm b a =
      cmdWord op (BitVec.ofNat 32 imm) (BitVec.ofNat 8 b) (BitVec.ofNat 8 a) := by
  rw [← asmShiftWord_eq_cmdWord]
  simp only [BitVec.toNat_ofNat, Nat.mod_eq_of_lt himm, Nat.mod_eq_of_lt hb, Nat.mod_eq_of_lt ha]

/-- Settles O54: `asmFits` is the bound of each field, and within it the assembled word is the command word of the fields. -/
theorem assembledCommandHoldsItsFields : Obligations.AssembledCommandHoldsItsFields := by
  refine ⟨fun a => ⟨fun ha => ?_, fun ha => ?_⟩, fun imm b a => ⟨fun hwide => ?_,
    fun himm hb ha => ?_⟩⟩
  · have hfits : ¬ asmFits 0 0 a = true := by
      rw [asmFits_iff]
      omega
    exact if_neg hfits
  · have hfits : asmFits 0 0 a = true := asmFits_iff.mpr ⟨ha, by decide, by decide⟩
    exact (if_pos hfits).trans (congrArg (some [cmdTxn ·]) (asmSetbitWord_of_lt ha))
  · have hfits : ¬ asmFits imm b a = true := by
      rw [asmFits_iff]
      omega
    exact ⟨if_neg hfits, if_neg hfits⟩
  · have hfits : asmFits imm b a = true := asmFits_iff.mpr ⟨ha, hb, himm⟩
    have hword (op : CmdOp) := asmShiftWord_of_lt op himm hb ha
    exact ⟨(if_pos hfits).trans (congrArg (some [cmdTxn ·]) (hword .accInsert)),
      (if_pos hfits).trans (congrArg (some [cmdTxn ·]) (hword .accCarry))⟩

end Sys2Proof.Machine
end

section
/-! The statements of 40_cipher.md about the rounds of `E`: the pairs a round mixes (section 3) and the standard form (section 4). -/

namespace Sys2Proof.Machine

theorem CipherCore.round_even {d : Nat} (h : d % 2 = 0) (w : Quad) :
    CipherCore.round d w =
      ⟨(CipherCore.mix w.w0 w.w1 (CipherCore.rot d 0)).1,
        (CipherCore.mix w.w0 w.w1 (CipherCore.rot d 0)).2,
        (CipherCore.mix w.w2 w.w3 (CipherCore.rot d 1)).1,
        (CipherCore.mix w.w2 w.w3 (CipherCore.rot d 1)).2⟩ :=
  if_pos h

theorem CipherCore.round_odd {d : Nat} (h : d % 2 = 1) (w : Quad) :
    CipherCore.round d w =
      ⟨(CipherCore.mix w.w0 w.w3 (CipherCore.rot d 0)).1,
        (CipherCore.mix w.w2 w.w1 (CipherCore.rot d 1)).2,
        (CipherCore.mix w.w2 w.w1 (CipherCore.rot d 1)).1,
        (CipherCore.mix w.w0 w.w3 (CipherCore.rot d 0)).2⟩ :=
  if_neg (by omega)

/-- Settles O4: the two MIX operations read and write disjoint words, so either order gives the four words of the round. -/
theorem roundMixesAlternatingPairs : Obligations.RoundMixesAlternatingPairs :=
  fun _ w _ => ⟨fun h => ⟨CipherCore.round_even h w, CipherCore.round_even h w⟩,
    fun h => ⟨CipherCore.round_odd h w, CipherCore.round_odd h w⟩⟩

/-! The standard form (R57). The permutation is its own inverse, so over an even and an odd round the two forms agree again. -/

/-- An even round of the standard form leaves the words of the model's round permuted; no subkey follows it. -/
theorem Standard.roundInject_even (k w : Quad) {d : Nat} (h : d % 2 = 0) :
    Standard.roundInject k w d = Standard.permute (CipherCore.roundInject k w d) := by
  have hinject : ¬ d % 4 = 3 := by omega
  rw [Standard.roundInject, CipherCore.roundInject, if_neg hinject, if_neg hinject,
    CipherCore.round_even h]
  rfl

/-- On permuted words an odd round of the standard form mixes the model's pairs and undoes the permutation. -/
theorem Standard.round_odd_permute (w : Quad) {d : Nat} (h : d % 2 = 1) :
    Standard.round d (Standard.permute w) = CipherCore.round d w :=
  (CipherCore.round_odd h w).symm

theorem Standard.roundInject_odd_permute (k w : Quad) {d : Nat} (h : d % 2 = 1) :
    Standard.roundInject k (Standard.permute w) d = CipherCore.roundInject k w d := by
  rw [Standard.roundInject, CipherCore.roundInject, Standard.round_odd_permute w h]

/-- After an even number of rounds both forms hold the same words. -/
theorem foldl_standard_eq (k w : Quad) :
    ∀ n, (List.range (2 * n)).foldl (Standard.roundInject k) w =
      (List.range (2 * n)).foldl (CipherCore.roundInject k) w
  | 0 => rfl
  | n + 1 => by
    have heven : 2 * n % 2 = 0 := by omega
    have hodd : (2 * n + 1) % 2 = 1 := by omega
    rw [show 2 * (n + 1) = 2 * n + 1 + 1 by omega]
    simp only [List.range_succ, List.foldl_append, List.foldl_cons, List.foldl_nil,
      foldl_standard_eq k w n, Standard.roundInject_even k _ heven,
      Standard.roundInject_odd_permute k _ hodd]

/-- Settles O6: the 72 rounds are 36 pairs of an even and an odd round. -/
theorem standardFormComputesSameWords : Obligations.StandardFormComputesSameWords :=
  fun k p => (foldl_standard_eq k (CipherCore.addQuad p (CipherCore.subkey k 0)) 36).symm

end Sys2Proof.Machine
end

section
/-! The statements of 20_memory.md about the host's transactions (R31 to R37), and of 10_state.md section 4 about `STATUS` and `CTRL` (R20 to R23). -/

namespace Sys2Proof.Machine

/-! The register map (R31). -/

theorem addr_eq_ofNat {a : Addr} {n : Nat} (h : a.toNat = n) : a = BitVec.ofNat 6 n := by
  subst h
  simp

theorem regAt_reserved {a : Addr}
    (h : (0x0A ≤ a.toNat ∧ a.toNat ≤ 0x0B) ∨ 0x1C ≤ a.toNat) : regAt a = .reserved := by
  revert a; decide

/-- A named register has one address. -/
theorem addrOfReg_regAt {a : Addr} (h : regAt a ≠ .reserved) : addrOfReg (regAt a) = some a := by
  revert a; decide

/-- Different addresses hold different registers, but for the reserved ones, which have no name to tell them apart. -/
theorem regAt_ne_or_reserved {a b : Addr} (h : b ≠ a) :
    regAt b ≠ regAt a ∨ regAt a = .reserved := by
  by_cases hres : regAt a = .reserved
  · exact .inr hres
  · refine .inl fun hab => h ?_
    have hb := addrOfReg_regAt (hab ▸ hres)
    rw [hab, addrOfReg_regAt hres] at hb
    exact (Option.some.inj hb).symm

section Read
variable (s : State)

theorem readReg_key (i : Fin 4) : readReg s (BitVec.ofNat 6 i.val) = quadGet s.key i := by
  simp only [readReg, regAt_key]

theorem readReg_blk (i : Fin 4) : readReg s (BitVec.ofNat 6 (0x04 + i.val)) = quadGet s.blk i := by
  simp only [readReg, regAt_blk]

theorem readReg_out (i : Fin 4) : readReg s (BitVec.ofNat 6 (0x0C + i.val)) = quadGet s.out i := by
  simp only [readReg, regAt_out]

theorem readReg_reserved {a : Addr} (h : regAt a = .reserved) : readReg s a = 0#64 := by
  simp only [readReg, h]

end Read

/-- Settles O7: each address of the map has its own clause of `readReg`. -/
theorem regReadReturnsMapValue : Obligations.RegReadReturnsMapValue := by
  intro s a
  refine ⟨readReg s a, exec_regRead s a, fun i ha => ?_, fun i ha => ?_, fun ha => ?_, fun ha => ?_,
    fun hlo hhi => readReg_reserved s (regAt_reserved (.inl ⟨hlo, hhi⟩)), fun i ha => ?_,
    fun j ha => ?_, fun ha => ?_, fun ha => ?_, fun ha => ?_, fun ha => ?_,
    fun hlo => readReg_reserved s (regAt_reserved (.inr hlo))⟩
  all_goals rw [addr_eq_ofNat ha]
  · exact readReg_key s i
  · exact readReg_blk s i
  · rfl
  · rfl
  · exact readReg_out s i
  · exact readReg_out32 s j
  all_goals rfl

/-! The numbers that `STATUS` and `CTRL` read as (R22, R23). -/

/-- A field set above the bits of a smaller value: the or of the two is their sum. -/
theorem toNat_field_or {w k : Nat} (x : BitVec w) {y : Word} (hw : w + k ≤ 64)
    (hy : y.toNat < 2 ^ k) :
    ((x.setWidth 64 <<< k) ||| y).toNat = x.toNat * 2 ^ k + y.toNat := by
  have hx : x.toNat < 2 ^ w := x.isLt
  have hfits : x.toNat * 2 ^ k < 2 ^ 64 :=
    calc x.toNat * 2 ^ k < 2 ^ w * 2 ^ k := Nat.mul_lt_mul_of_pos_right hx (Nat.two_pow_pos k)
      _ = 2 ^ (w + k) := (Nat.pow_add 2 w k).symm
      _ ≤ 2 ^ 64 := Nat.pow_le_pow_right (by decide) hw
  have hwidth : x.toNat < 2 ^ 64 := hx.trans_le (Nat.pow_le_pow_right (by decide) (by omega))
  rw [BitVec.toNat_or, BitVec.toNat_shiftLeft, BitVec.toNat_setWidth, Nat.mod_eq_of_lt hwidth,
    Nat.shiftLeft_eq, Nat.mod_eq_of_lt hfits, ← Nat.shiftLeft_eq,
    ← Nat.shiftLeft_add_eq_or_of_lt hy]

theorem toNat_flag (b : Bool) : ((BitVec.ofBool b).setWidth 64 : Word).toNat = b.toNat := by
  cases b <;> rfl

theorem ctrlWord_toNat (s : State) : (ctrlWord s).toNat = s.errIe.toNat * 2 + s.doneIe.toNat := by
  have hbit : s.doneIe.toNat < 2 ^ 1 := s.doneIe.toNat_lt
  rw [ctrlWord, toNat_field_or _ (by decide) (by rwa [toNat_flag]), toNat_flag, BitVec.toNat_ofBool,
    Nat.pow_one]

theorem statusWord_toNat (s : State) :
    (statusWord s).toNat =
      s.lastop.toNat * 2 ^ 8 + (errNumber s.errcode).toNat * 2 ^ 4 + s.err.toNat * 2 ^ 2 +
        s.done.toNat * 2 + s.busy.toNat := by
  have hbusy := s.busy.toNat_lt
  have hdone := s.done.toNat_lt
  have herr := s.err.toNat_lt
  have hcode := (errNumber s.errcode).isLt
  -- The fields from bit 1, bit 2, bit 4 and bit 8 down.
  have h1 := toNat_field_or (k := 1) (BitVec.ofBool s.done) (by decide)
    ((toNat_flag s.busy).trans_lt hbusy)
  rw [toNat_flag, BitVec.toNat_ofBool] at h1
  have h2 := toNat_field_or (k := 2) (BitVec.ofBool s.err) (by decide) (h1.trans_lt (by omega))
  rw [h1, BitVec.toNat_ofBool] at h2
  have h4 := toNat_field_or (k := 4) (errNumber s.errcode) (by decide) (h2.trans_lt (by omega))
  have h8 := toNat_field_or (k := 8) s.lastop (by decide) (h4.trans_lt (by omega))
  rw [statusWord, BitVec.or_assoc, BitVec.or_assoc, BitVec.or_assoc, h8, h4, h2]
  omega

/-- Settles O9: the fields of `statusWord` do not overlap, so their or is their sum. -/
theorem statusReadsItsFields : Obligations.StatusReadsItsFields := by
  intro s
  refine ⟨statusWord s, exec_regRead s 0x19#6, ?_⟩
  rw [statusWord_toNat]
  cases s.errcode <;> rfl

/-- Settles O13: the write is `State.setCtrl`, the read value `ctrlWord`. -/
theorem ctrlHoldsTwoEnables : Obligations.CtrlHoldsTwoEnables :=
  fun s v => ⟨exec_regWrite_ctrl v s, ctrlWord s, exec_regRead s 0x1A#6, ctrlWord_toNat s⟩

/-! What a register write does (R34) and leaves. -/

/-- The write effect, by the register's name. -/
theorem exec_regWrite_of_regAt {a : Addr} {r : RegName} (ha : regAt a = r) (hr : r ≠ .cmd)
    (v : Word) (s : State) : exec (.regWrite a v) s = .next (s.writeReg r v) := by
  subst ha
  exact exec_regWrite (mt regAt_eq_cmd_iff.mpr hr) v s

/-- Settles O10: the write replaces one word of its group (`quadSet`), or the whole of `COUNT` or `BITS`. -/
theorem regWriteStoresDataWord : Obligations.RegWriteStoresDataWord := by
  intro s v
  refine ⟨fun i => ⟨quadSet s.key i v, exec_regWrite_of_regAt (regAt_key i) nofun v s, ?_⟩,
    fun i => ⟨quadSet s.blk i v, exec_regWrite_of_regAt (regAt_blk i) nofun v s, ?_⟩, rfl, rfl⟩
  · exact ⟨quadGet_quadSet_self _ i v, fun j hj => quadGet_quadSet_ne _ v hj⟩
  · exact ⟨quadGet_quadSet_self _ i v, fun j hj => quadGet_quadSet_ne _ v hj⟩

/-- Settles O11: the registers at these addresses have no write effect. -/
theorem regWriteToReadOnlyIsIgnored : Obligations.RegWriteToReadOnlyIsIgnored := by
  intro s a v ha
  obtain ⟨i, hr⟩ | ⟨j, hr⟩ | hr | hr := regAt_read_only ha
  all_goals exact exec_regWrite_of_regAt hr nofun v s

/-- Settles O12: by `State.writeStatus_eq`, for each value of the two bits. -/
theorem statusWriteClearsOnes : Obligations.StatusWriteClearsOnes := by
  intro s v
  rw [exec_regWrite_status, State.writeStatus_eq]
  cases v.getLsbD 1 <;> cases v.getLsbD 2 <;> simp

theorem State.writeReg_writeReg (s : State) (r : RegName) (v : Word) :
    (s.writeReg r v).writeReg r v = s.writeReg r v := by
  cases r with
  | key | blk => simp [State.writeReg, State.setKey, State.setBlk, quadSet_quadSet]
  | status =>
    simp only [State.writeReg, State.writeStatus_eq]
    cases v.getLsbD 2 <;> simp
  | count | bits | ctrl | out | out32 | cmd | id | reserved => rfl

/-- Settles O14: a write effect twice is the effect once (`State.writeReg_writeReg`). -/
theorem registerWritesAreIdempotent : Obligations.RegisterWritesAreIdempotent := by
  intro s a v ha
  refine ⟨s.writeReg (regAt a) v, exec_regWrite ha v s, ?_⟩
  rw [exec_regWrite ha, State.writeReg_writeReg]

/-- Settles O15: another address holds another register, or the one written is reserved and nothing happens. -/
theorem regWriteFrame : Obligations.RegWriteFrame := by
  intro s a v ha
  refine ⟨s.writeReg (regAt a) v, exec_regWrite ha v s, fun b hb => ?_, by simp⟩
  obtain hne | hres := regAt_ne_or_reserved hb
  · exact readReg_writeReg_of_ne s v hne
  · rw [hres]
    rfl

end Sys2Proof.Machine
end

section
/-! The statements about the commands: the rejection while `BUSY` = 1 (60_exceptions.md section 2), the frames of the accepted commands (42_accumulator.md, 40_cipher.md section 5), the engine phase (R60) and the Mixer commands (41_mixer.md). -/

namespace Sys2Proof.Machine

/-- Settles O21: an instruction that is no transaction is an opcode with its fields, and each is rejected by `exec_instr_of_busy`. -/
theorem commandsAreRejectedWhileBusy : Obligations.CommandsAreRejectedWhileBusy := by
  intro s i hbusy hread hwrite
  obtain (⟨a, rfl⟩ | ⟨a, v, rfl⟩) | ⟨op, imm, b, a, -, rfl⟩ := i.transaction_or_command
  · exact absurd rfl (hread a)
  · exact absurd rfl (hwrite a v)
  · exact exec_instr_of_busy op imm b a hbusy

/-! The frames of the accepted commands. -/

theorem instr_eq_nop_iff {op : CmdOp} {imm : Half} {b a : Byte} :
    op.instr imm b a = .nop ↔ op = .nop := by
  cases op <;> simp [CmdOp.instr]

theorem instr_eq_cntInc_iff {op : CmdOp} {imm : Half} {b a : Byte} :
    op.instr imm b a = .cntInc ↔ op = .cntInc := by
  cases op <;> simp [CmdOp.instr]

/-- Only ACC_CLEAR and CNT_INC write `COUNT`; NOP and CNT_INC do not write `BITS`. -/
theorem exec_instr_immediate {s : State} (hidle : s.busy = false) {op : CmdOp} (imm : Half)
    {b a : Byte} (hop : op ∉ [CmdOp.encrypt, .mash, .rekey]) (hargs : op.argsOk b a = true) :
    ∃ count bits, exec (op.instr imm b a) s =
        .next (((s.setCount count).setBits bits).setLastop op.code) ∧
      (op ∉ [CmdOp.accClear, .cntInc] → count = s.count) ∧
      (op ∈ [CmdOp.nop, .cntInc] → bits = s.bits) := by
  cases op with
  | encrypt | mash | rekey => exact absurd (by decide) hop
  | nop => exact ⟨s.count, s.bits, exec_nop_of_idle hidle, by simp⟩
  | accClear => exact ⟨_, _, exec_accClear_of_idle hidle, by simp⟩
  | accSetbit =>
    exact ⟨s.count, _, exec_accSetbit_of_idle hidle (setbitArgOk_iff.mp hargs), by simp⟩
  | accInsert =>
    obtain ⟨ha, hb⟩ := shiftArgsOk_iff.mp hargs
    exact ⟨s.count, _, exec_accInsert_of_idle hidle ha hb, by simp⟩
  | accCarry =>
    obtain ⟨ha, hb⟩ := shiftArgsOk_iff.mp hargs
    exact ⟨s.count, _, exec_accCarry_of_idle hidle ha hb, by simp⟩
  | cntInc => exact ⟨s.count + 1#64, s.bits, exec_cntInc_of_idle hidle, by simp⟩

theorem readReg_immediate (s : State) (count bits : Word) (op : Byte) {a : Addr}
    (hcount : a ≠ 0x08#6) (hbits : a ≠ 0x09#6) (hstatus : a ≠ 0x19#6) :
    readReg (((s.setCount count).setBits bits).setLastop op) a = readReg s a := by
  unfold readReg
  cases hr : regAt a with
  | count => exact absurd (regAt_eq_count_iff.mp hr) hcount
  | bits => exact absurd (regAt_eq_bits_iff.mp hr) hbits
  | status => exact absurd (regAt_eq_status_iff.mp hr) hstatus
  | key | blk | out | out32 | cmd | ctrl | id | reserved => rfl

theorem readReg_issue (s : State) (op : Byte) (b : Quad) {a : Addr} (hstatus : a ≠ 0x19#6) :
    readReg (s.issue op b) a = readReg s a := by
  unfold readReg
  cases hr : regAt a with
  | status => exact absurd (regAt_eq_status_iff.mp hr) hstatus
  | key | blk | count | bits | out | out32 | cmd | ctrl | id | reserved => rfl

/-- Settles O28: each of the six is `exec_instr_immediate`, which writes `COUNT`, `BITS` and LASTOP at most. -/
theorem immediateCommandFrame : Obligations.ImmediateCommandFrame := by
  intro s i hidle hwf hi
  obtain ⟨op, imm, b, a, hop, rfl⟩ :
      ∃ (op : CmdOp) (imm : Half) (b a : Byte),
        op ∉ [CmdOp.encrypt, .mash, .rekey] ∧ i = op.instr imm b a := by
    obtain rfl | rfl | ⟨a, rfl⟩ | ⟨imm, b, a, rfl⟩ | ⟨imm, b, a, rfl⟩ | rfl := hi
    · exact ⟨.nop, 0, 0, 0, by decide, rfl⟩
    · exact ⟨.accClear, 0, 0, 0, by decide, rfl⟩
    · exact ⟨.accSetbit, 0, 0, a, by decide, rfl⟩
    · exact ⟨.accInsert, imm, b, a, by decide, rfl⟩
    · exact ⟨.accCarry, imm, b, a, by decide, rfl⟩
    · exact ⟨.cntInc, 0, 0, 0, by decide, rfl⟩
  rw [WellFormed, wellFormed_instr] at hwf
  obtain ⟨count, bits, ht, hcount, hbits⟩ := exec_instr_immediate hidle imm hop hwf
  refine ⟨_, ht, fun x => readReg_immediate s count bits op.code, fun hclear hinc => ?_,
    fun h => ?_, rfl, rfl, rfl, rfl, rfl, rfl, rfl, rfl, rfl, rfl, rfl⟩
  · refine hcount fun hmem => ?_
    obtain rfl | rfl : op = .accClear ∨ op = .cntInc := by simpa using hmem
    · exact hclear rfl
    · exact hinc rfl
  · rw [instr_eq_nop_iff, instr_eq_cntInc_iff] at h
    exact hbits (by simpa using h)

/-- Settles O30: each of the three is `State.issue`, of which the register space shows only what `STATUS` reads. -/
theorem engineIssueFrame : Obligations.EngineIssueFrame := by
  intro s i hidle hi
  obtain ⟨op, b, ht⟩ : ∃ op b, exec i s = .next (s.issue op b) := by
    obtain rfl | rfl | rfl := hi
    · exact ⟨_, _, exec_encrypt_idle hidle⟩
    · exact ⟨_, _, exec_mash_idle hidle⟩
    · exact ⟨_, _, exec_rekey_idle hidle⟩
  exact ⟨_, ht, fun a => readReg_issue s op b, rfl, rfl, rfl, rfl, rfl, rfl⟩

/-! The engine phase (R60). -/

/-- Settles O31: the three cases of `State.enginePhase`. -/
theorem enginePhaseCompletesAtLastCycle : Obligations.EnginePhaseCompletesAtLastCycle := by
  intro s
  refine ⟨State.enginePhase_idle, fun hbusy hrem => ?_, fun hbusy hrem => ?_⟩
  · exact State.enginePhase_running hbusy (by omega)
  · exact State.enginePhase_last hbusy (by omega)

theorem completionKey_rekey (r key : Quad) : completionKey CmdOp.rekey.code r key = r :=
  if_pos rfl

theorem completionKey_of_ne {op : Byte} (h : op ≠ CmdOp.rekey.code) (r key : Quad) :
    completionKey op r key = key :=
  if_neg h

section IssueLast
variable (s : State) (op : Byte) (b : Quad)

/-- A command taken straight to its last cycle completes with `E` of what was captured at its issue. -/
theorem enginePhase_issue_last :
    ({ s.issue op b with rem := 1 } : State).enginePhase =
      ({ s.issue op b with rem := 1 } : State).complete (CipherCore.encrypt s.key b) :=
  State.enginePhase_last rfl rfl

theorem enginePhase_issue_last_out :
    ({ s.issue op b with rem := 1 } : State).enginePhase.out = CipherCore.encrypt s.key b :=
  congrArg State.out (enginePhase_issue_last s op b)

theorem enginePhase_issue_last_key :
    ({ s.issue op b with rem := 1 } : State).enginePhase.key =
      completionKey op (CipherCore.encrypt s.key b) s.key :=
  congrArg State.key (enginePhase_issue_last s op b)

end IssueLast

/-- Settles O33: both commands capture the key and the block `[BITS, COUNT, 0, 0]`; only REKEY's completion writes `KEY`. -/
theorem mashIsEncryptOfMixerBlock : Obligations.MashIsEncryptOfMixerBlock := by
  intro s hidle
  have hmash := enginePhase_issue_last_out s CmdOp.mash.code (mixBlock s.bits s.count)
  have hencrypt := enginePhase_issue_last_out (s.setBlk (mixBlock s.bits s.count))
    CmdOp.encrypt.code (mixBlock s.bits s.count)
  refine ⟨_, _, exec_mash_idle hidle, exec_encrypt_idle hidle, rfl, rfl, rfl,
    hmash.trans hencrypt.symm, hmash, ?_⟩
  exact (enginePhase_issue_last_key ..).trans (completionKey_of_ne (by decide) _ _)

/-- Settles O34: the completion of an issue with REKEY's opcode writes the result to `KEY` too. -/
theorem rekeyReplacesKeyWithResult : Obligations.RekeyReplacesKeyWithResult := by
  intro s hidle
  refine ⟨_, exec_rekey_idle hidle, enginePhase_issue_last_out .., ?_,
    State.enginePhase_count _, State.enginePhase_bits _⟩
  exact (enginePhase_issue_last_key ..).trans (completionKey_rekey _ _)

end Sys2Proof.Machine
end

section
/-! The statements about the cycle: the presented transaction (20_memory.md section 2, 30_encoding.md section 1), the busy window (70_reset_and_hazards.md section 3) and the reset cycle (R85). -/

namespace Sys2Proof.Machine

/-- A cycle without reset is phase (a) and then phase (b) (R32). -/
theorem step_of_no_rst {s : State} (h : s.input.rst = false) :
    step s = transact s.input.txn s.beginCycle.enginePhase := by
  simp [step, cycle, h]

theorem step_of_txn {s : State} {x : Txn} (hrst : s.input.rst = false)
    (hx : s.input.txn = some x) : step s = exec (decodeBus x) s.beginCycle.enginePhase := by
  rw [step_of_no_rst hrst, hx]
  rfl

theorem step_of_writes {s : State} {a : Addr} {v : Word} (hw : Writes s a v) :
    step s = exec (.regWrite a v) s.beginCycle.enginePhase := by
  obtain ⟨hrst, hx⟩ := hw
  exact step_of_txn hrst hx

/-- Settles O35: with a transaction, phase (b) is `exec` of what `decodeBus` reads; without one it is nothing. -/
theorem stepRunsPresentedTransaction : Obligations.StepRunsPresentedTransaction := by
  intro s hrst
  refine ⟨fun x hx => step_of_txn hrst hx, fun hnone => ?_⟩
  rw [step_of_no_rst hrst, hnone]
  rfl

/-- Writing a command's word to `CMD` is the command, be it rejected with BUSY or not. -/
theorem exec_regWrite_cmd_of_decodes {v : Word} {i : Instr} (hdec : decodeCmd v = .ok i)
    (s : State) : exec (.regWrite 0x18#6 v) s = exec i s := by
  cases hbusy : s.busy with
  | false => exact exec_regWrite_cmd_of_decodeCmd_ok hbusy hdec
  | true =>
    obtain ⟨op, -, -, -, rfl⟩ := decodeCmd_eq_ok_iff.mp hdec
    rw [exec_regWrite_cmd_of_busy hbusy, exec_instr_of_busy op _ _ _ hbusy]

/-- Settles O36: the step is the write to `CMD`, which is the command of its word. -/
theorem stepRunsDecodedCommand : Obligations.StepRunsDecodedCommand :=
  fun _ _ _ hw hdec => (step_of_writes hw).trans (exec_regWrite_cmd_of_decodes hdec _)

/-- Settles O38: phase (a) only counts, and leaves BUSY = 1 to the write. -/
theorem busyWindowRejectsEveryWord : Obligations.BusyWindowRejectsEveryWord := by
  intro s v hbusy hrem hw
  have hphase : s.beginCycle.enginePhase = s.beginCycle.setRem (s.rem - 1) :=
    State.enginePhase_running hbusy (show s.rem - 1 ≠ 0 by omega)
  rw [step_of_writes hw, hphase]
  exact exec_regWrite_cmd_of_busy (s := s.beginCycle.setRem (s.rem - 1)) hbusy v

/-! The opcode table's bits (log 10). -/

/-- What the table's bits decode to is a transaction's instruction or a command's. -/
theorem decodeTableWord_eq_some {nbits w : Nat} {i : Instr} (h : decodeTableWord nbits w = some i) :
    ∃ x, tableTxn nbits w = some x ∧
      (decodeBus x = i ∨ ∃ v, x = cmdTxn v ∧ decodeCmd v = .ok i) := by
  unfold decodeTableWord at h
  split at h
  · obtain ⟨x, hx, hi⟩ := Option.map_eq_some_iff.mp h
    exact ⟨x, hx, .inl hi⟩
  · rename_i hlong
    split at h
    · cases h
    · rename_i x hx
      refine ⟨x, hx, .inr ⟨x.wdata, ?_, ?_⟩⟩
      · obtain ⟨-, rfl⟩ : w < 2 ^ 64 ∧ cmdTxn (BitVec.ofNat 64 w) = x := by
          simpa [tableTxn, hlong] using hx
        rfl
      · cases hd : decodeCmd x.wdata with
        | error c => simp [hd, Except.toOption] at h
        | ok j => simpa [hd, Except.toOption] using h

theorem step_present (s : State) (x : Txn) :
    step (s.present x) = exec (decodeBus x) ({ s with rdata := none } : State).enginePhase :=
  step_of_txn (s := s.present x) rfl rfl

/-- Settles O37: the bits are presented as one transaction, a command's as the write of its word to `CMD`. -/
theorem fetchedTableWordRuns : Obligations.FetchedTableWordRuns := by
  intro s nbits w i hdec
  obtain ⟨x, hx, hi⟩ := decodeTableWord_eq_some hdec
  have hfetch : s.withFetchWord nbits w = s.present x := by
    simp only [State.withFetchWord, State.presentTableWord, hx]
  rw [hfetch, step_present]
  obtain rfl | ⟨v, rfl, hcmd⟩ := hi
  · rfl
  · exact exec_regWrite_cmd_of_decodes hcmd _

/-- Settles O42: `State.resetCycle` keeps the latency and the host's inputs, and `resetRdata` says what the port returns. -/
theorem resetCycleRestoresResetState : Obligations.ResetCycleRestoresResetState := by
  intro s hrst
  refine ⟨_, step_of_rst hrst, rfl, fun hnone => ?_, fun x hx hwe => ?_, fun x hx hwe => ?_⟩
  · rw [hnone]
    rfl
  · rw [hx]
    exact if_neg (by simp [hwe])
  · rw [hx]
    exact if_pos hwe

end Sys2Proof.Machine
end

section
/-! The statements about a command in flight: it completes after the cycles it has left (40_cipher.md section 5), as a host that polls `STATUS` sees (30_encoding.md section 5). -/

namespace Sys2Proof.Machine

/-! The cycles before the completion. -/

/-- Only an accepted command writes LASTOP, and none is accepted while `BUSY` = 1. -/
theorem Effect.lastop_eq_of_busy {s t : State} (e : Effect s t) (h : s.busy = true) :
    t.lastop = s.lastop := by
  cases e with
  | read | write | rejected => simp
  | immediate op count bits hidle => simp [h] at hidle
  | issued op b hidle => simp [h] at hidle

/-- The state `u` is `s` after `n` cycles of the command in flight, none of them its last. -/
structure InFlight (s : State) (n : Nat) (u : State) : Prop where
  busy : u.busy = true
  rem : u.rem = s.rem - n
  out : u.out = s.out
  lastop : u.lastop = s.lastop
  engOp : u.engOp = s.engOp
  engKey : u.engKey = s.engKey
  engIn : u.engIn = s.engIn
  host : u.host = s.host.drop n

/-- A cycle without reset is phase (a) and then one effect of the transaction. -/
theorem step_effect_of_no_rst {s : State} (hrst : s.input.rst = false) :
    ∃ t, step s = .next t ∧ Effect s.beginCycle.enginePhase t := by
  obtain ⟨h, -⟩ | ⟨-, t, ht, heffect, -⟩ := step_cases s
  · simp [hrst] at h
  · exact ⟨t, ht, heffect⟩

/-- A cycle that is not the command's last counts, whatever the transaction in it. -/
theorem step_inFlight {s : State} (hbusy : s.busy = true) (hrem : 2 ≤ s.rem)
    (hrst : s.input.rst = false) : ∃ t, step s = .next t ∧ InFlight s 1 t := by
  have hphase : s.beginCycle.enginePhase = s.beginCycle.setRem (s.rem - 1) :=
    State.enginePhase_running hbusy (show s.rem - 1 ≠ 0 by omega)
  obtain ⟨t, ht, heffect⟩ := step_effect_of_no_rst hrst
  rw [hphase] at heffect
  have hb : (s.beginCycle.setRem (s.rem - 1)).busy = true := hbusy
  obtain ⟨htbusy, hop, hkey, hin, htrem⟩ := heffect.engine_eq_of_busy hb
  exact ⟨t, ht, htbusy, htrem, heffect.out_eq, heffect.lastop_eq_of_busy hb, hop, hkey, hin,
    heffect.host_eq.trans List.drop_one.symm⟩

theorem InFlight.trans {s u t : State} {m n : Nat} (h : InFlight s m u) (h' : InFlight u n t) :
    InFlight s (m + n) t where
  busy := h'.busy
  rem := by rw [h'.rem, h.rem, Nat.sub_sub]
  out := h'.out.trans h.out
  lastop := h'.lastop.trans h.lastop
  engOp := h'.engOp.trans h.engOp
  engKey := h'.engKey.trans h.engKey
  engIn := h'.engIn.trans h.engIn
  host := by rw [h'.host, h.host, List.drop_drop]

theorem stepN_succ_eq_step {s u : State} {n : Nat} (h : stepN n s = .next u) :
    stepN (n + 1) s = step u := by
  induction n generalizing s with
  | zero =>
    cases h
    simp only [stepN]
    cases step u <;> rfl
  | succ n ih =>
    rw [stepN] at h ⊢
    cases hs : step s with
    | next t =>
      rw [hs] at h
      exact ih h
    | fault r => cases r
    | refused r => simp [hs] at h

/-- The input of a cycle is the next of the host's inputs. -/
theorem input_of_drop {s u : State} {n : Nat} (h : u.host = s.host.drop n) :
    u.input = s.host.getD n { rst := false, txn := none } := by
  rw [State.input, h, List.headD_eq_head?_getD, List.head?_drop, List.getD_eq_getElem?_getD]

theorem NoReset.rst_eq_false {s u : State} {m n : Nat} (h : NoReset s m) (hn : n < m)
    (hhost : u.host = s.host.drop n) : u.input.rst = false := by
  rw [input_of_drop hhost]
  by_cases hlen : n < s.host.length
  · rw [List.getD_eq_getElem _ _ hlen]
    exact h _ (List.mem_take_iff_getElem.mpr ⟨n, by omega, rfl⟩)
  · rw [List.getD_eq_default _ _ (by omega)]

/-- While a command has cycles left and no reset comes, it stays in flight. -/
theorem stepN_inFlight {s : State} (hbusy : s.busy = true) (hreset : NoReset s s.rem) :
    ∀ n < s.rem, ∃ u, stepN n s = .next u ∧ InFlight s n u
  | 0, _ => ⟨s, rfl, hbusy, rfl, rfl, rfl, rfl, rfl, rfl, rfl⟩
  | n + 1, hn => by
    obtain ⟨u, hu, hflight⟩ := stepN_inFlight hbusy hreset n (by omega)
    have hrem := hflight.rem
    obtain ⟨t, ht, hnext⟩ := step_inFlight hflight.busy (by omega)
      (hreset.rst_eq_false (by omega) hflight.host)
    exact ⟨t, (stepN_succ_eq_step hu).trans ht, hflight.trans hnext⟩

/-! The last cycle. -/

/-- No transaction of the last cycle reaches the result. -/
theorem step_completes {s : State} (hbusy : s.busy = true) (hrem : s.rem = 1)
    (hrst : s.input.rst = false) :
    ∃ t, step s = .next t ∧ t.out = CipherCore.encrypt s.engKey s.engIn := by
  have hphase : s.beginCycle.enginePhase = s.completed :=
    State.enginePhase_last hbusy (show s.rem - 1 = 0 by omega)
  obtain ⟨t, ht, heffect⟩ := step_effect_of_no_rst hrst
  rw [hphase] at heffect
  exact ⟨t, ht, heffect.out_eq⟩

/-- Settles O32: by induction on the cycles the command stays in flight, and the last of them completes it. -/
theorem engineRunsToCompletion : Obligations.EngineRunsToCompletion := by
  intro s hbusy hrem hreset
  constructor
  · intro n hn
    obtain ⟨u, hu, hflight⟩ := stepN_inFlight hbusy hreset n hn
    exact ⟨u, hu, hflight.busy, hflight.rem, hflight.out, hflight.lastop, hflight.engOp,
      hflight.engKey, hflight.engIn⟩
  · obtain ⟨u, hu, hflight⟩ := stepN_inFlight hbusy hreset (s.rem - 1) (by omega)
    have hurem := hflight.rem
    obtain ⟨t, ht, hout⟩ := step_completes hflight.busy (by omega)
      (hreset.rst_eq_false (by omega) hflight.host)
    refine ⟨t, ?_, by rw [hout, hflight.engKey, hflight.engIn]⟩
    rw [← ht, ← stepN_succ_eq_step hu, Nat.sub_add_cancel hrem]

/-! Polling `STATUS` (R49). -/

theorem statusWord_getLsbD_zero (s : State) : (statusWord s).getLsbD 0 = s.busy := by
  simp [statusWord]

/-- `BUSY` after phase (a): 1 unless this was the command's last cycle. -/
theorem enginePhase_busy_of_busy {s : State} (hbusy : s.busy = true) :
    s.enginePhase.busy = decide (1 < s.rem) := by
  by_cases hrem : 1 < s.rem
  · rw [State.enginePhase_running hbusy (by omega)]
    simp [hbusy, hrem]
  · rw [State.enginePhase_last hbusy (by omega)]
    simp [hrem]

/-- A host that reads `STATUS` in a cycle of a command sees whether the cycle is its last. -/
theorem step_reads_busy {s : State} (hbusy : s.busy = true)
    (hinput : s.input = { rst := false, txn := some (rdTxn 0x19#6) }) :
    ∃ t v, step s = .next t ∧ t.rdata = some v ∧ v.getLsbD 0 = decide (1 < s.rem) := by
  have hstep : step s = exec (.regRead 0x19#6) s.beginCycle.enginePhase := by
    rw [step_of_txn (x := rdTxn 0x19#6) (by rw [hinput]) (by rw [hinput])]
    rfl
  refine ⟨_, _, hstep.trans (exec_regRead _ _), rfl, ?_⟩
  exact (statusWord_getLsbD_zero _).trans (enginePhase_busy_of_busy (s := s.beginCycle) hbusy)

theorem waitReads_one (c : Config.Instance) : waitReads c 1 = c.ccLatency := by
  simp [waitReads, Config.Instance.ccLatency]

/-- Settles O55: before the `n`-th read the command has been in flight for `n - 1` cycles; an issue sets REM to CC_LATENCY. -/
theorem waitReadsUntilCompletion : Obligations.WaitReadsUntilCompletion := by
  constructor
  · intro s rest hbusy hrem hhost n hn hle
    have hinput {m : Nat} {u : State} (hm : m < s.rem) (hu : u.host = s.host.drop m) :
        u.input = { rst := false, txn := some (rdTxn 0x19#6) } := by
      rw [input_of_drop hu, hhost, List.getD_append _ _ _ _ (by simpa using hm)]
      simp [List.getD_eq_getElem?_getD, hm]
    have hreset : NoReset s s.rem := by
      intro p hp
      rw [hhost, List.take_left' (List.length_replicate ..)] at hp
      rw [List.eq_of_mem_replicate hp]
    obtain ⟨u, hu, hflight⟩ := stepN_inFlight hbusy hreset (n - 1) (by omega)
    obtain ⟨t, v, ht, hv, hbit⟩ := step_reads_busy hflight.busy (hinput (by omega) hflight.host)
    have hurem := hflight.rem
    refine ⟨t, v, ?_, hv, hbit.trans (decide_eq_decide.mpr (by omega))⟩
    rw [← ht, ← stepN_succ_eq_step hu, Nat.sub_add_cancel hn]
  · intro s t hidle hissue
    refine ⟨?_, waitReads_one s.inst⟩
    rw [exec_encrypt_idle hidle, exec_mash_idle hidle, exec_rekey_idle hidle] at hissue
    obtain h | h | h := hissue <;> cases h <;> rfl

end Sys2Proof.Machine
end

section
/-! The statements of 10_state.md sections 3 and 4 about what changes a register or a flag in a cycle without reset. -/

namespace Sys2Proof.Machine

/-! What a transaction can do, with the transaction that does it. -/

/-- What phase (b) can do to the state `s`, and which transaction does it: the address of a register write, the opcode of an accepted command. `Effect` leaves the transaction out. -/
inductive Transacted (s : State) : Option Txn → State → Prop
  | idle : Transacted s none s
  | read (a : Addr) (w : Word) :
      Transacted s (some { we := false, addr := a, wdata := w })
        (s.setRdata (some (readReg s a)))
  /-- A write to a reserved or read-only address. -/
  | ignored (a : Addr) (v : Word) : Transacted s (some { we := true, addr := a, wdata := v }) s
  | key (a : Addr) (v : Word) (q : Quad) (ha : a.toNat ≤ 0x03) :
      Transacted s (some { we := true, addr := a, wdata := v }) (s.setKey q)
  | blk (a : Addr) (v : Word) (q : Quad) (ha : 0x04 ≤ a.toNat ∧ a.toNat ≤ 0x07) :
      Transacted s (some { we := true, addr := a, wdata := v }) (s.setBlk q)
  | count (v : Word) :
      Transacted s (some { we := true, addr := 0x08#6, wdata := v }) (s.setCount v)
  | bits (v : Word) :
      Transacted s (some { we := true, addr := 0x09#6, wdata := v }) (s.setBits v)
  | status (v : Word) :
      Transacted s (some { we := true, addr := 0x19#6, wdata := v })
        { s with
          done := s.done && !v.getLsbD 1
          err := s.err && !v.getLsbD 2
          errcode := if v.getLsbD 2 then .none else s.errcode }
  | ctrl (v : Word) :
      Transacted s (some { we := true, addr := 0x1A#6, wdata := v }) (s.setCtrl v)
  | rejected (v : Word) (c : ErrCode) :
      Transacted s (some { we := true, addr := 0x18#6, wdata := v })
        { s with err := true, errcode := if s.err then s.errcode else c }
  | immediate (v : Word) (op : CmdOp) (count bits : Word) (hop : fieldOp v = op.code)
      (hcount : op ∉ [CmdOp.accClear, .cntInc] → count = s.count)
      (hbits : op ∉ [CmdOp.accClear, .accSetbit, .accInsert, .accCarry] → bits = s.bits) :
      Transacted s (some { we := true, addr := 0x18#6, wdata := v })
        (((s.setCount count).setBits bits).setLastop op.code)
  | issued (v : Word) (op : CmdOp) (b : Quad) (hop : fieldOp v = op.code)
      (hengine : op ∈ [CmdOp.encrypt, .mash, .rekey]) :
      Transacted s (some { we := true, addr := 0x18#6, wdata := v }) (s.issue op.code b)

theorem exec_instr_engine {s : State} (hidle : s.busy = false) {op : CmdOp} (imm : Half)
    (b a : Byte) (hop : op ∈ [CmdOp.encrypt, .mash, .rekey]) :
    ∃ q, exec (op.instr imm b a) s = .next (s.issue op.code q) := by
  cases op with
  | encrypt => exact ⟨_, exec_encrypt_idle hidle⟩
  | mash => exact ⟨_, exec_mash_idle hidle⟩
  | rekey => exact ⟨_, exec_rekey_idle hidle⟩
  | nop | accClear | accSetbit | accInsert | accCarry | cntInc => exact absurd hop (by decide)

theorem exec_regWrite_cmd_transacted (v : Word) (s : State) :
    ∃ t, exec (.regWrite 0x18#6 v) s = .next t ∧
      Transacted s (some { we := true, addr := 0x18#6, wdata := v }) t := by
  have hrejected (c : ErrCode) :
      Transacted s (some { we := true, addr := 0x18#6, wdata := v }) (s.cmdError c) := by
    rw [State.cmdError_eq]
    exact .rejected v c
  cases hbusy : s.busy with
  | true => exact ⟨_, exec_regWrite_cmd_of_busy hbusy v, hrejected _⟩
  | false =>
    cases hdec : decodeCmd v with
    | error c => exact ⟨_, exec_regWrite_cmd_of_decodeCmd_error hbusy hdec, hrejected c⟩
    | ok i =>
      rw [exec_regWrite_cmd_of_decodeCmd_ok hbusy hdec]
      obtain ⟨op, hop, -, hargs, rfl⟩ := decodeCmd_eq_ok_iff.mp hdec
      by_cases hengine : op ∈ [CmdOp.encrypt, .mash, .rekey]
      · obtain ⟨q, ht⟩ := exec_instr_engine hbusy (fieldImm v) (fieldB v) (fieldA v) hengine
        exact ⟨_, ht, .issued v op q hop hengine⟩
      · obtain ⟨count, bits, ht, hcount, hbits⟩ :=
          exec_instr_immediate hbusy (fieldImm v) hengine hargs
        refine ⟨_, ht, .immediate v op count bits hop hcount fun h => hbits ?_⟩
        revert h hengine
        cases op <;> decide

theorem exec_regWrite_transacted {a : Addr} (ha : a ≠ 0x18#6) (v : Word) (s : State) :
    ∃ t, exec (.regWrite a v) s = .next t ∧
      Transacted s (some { we := true, addr := a, wdata := v }) t := by
  refine ⟨_, exec_regWrite ha v s, ?_⟩
  cases hr : regAt a with
  | key i =>
    obtain rfl := regAt_eq_key_iff.mp hr
    exact .key _ v _ (by revert i; decide)
  | blk i =>
    obtain rfl := regAt_eq_blk_iff.mp hr
    exact .blk _ v _ (by revert i; decide)
  | count =>
    obtain rfl := regAt_eq_count_iff.mp hr
    exact .count v
  | bits =>
    obtain rfl := regAt_eq_bits_iff.mp hr
    exact .bits v
  | status =>
    obtain rfl := regAt_eq_status_iff.mp hr
    rw [State.writeReg, State.writeStatus_eq]
    exact .status v
  | ctrl =>
    obtain rfl := regAt_eq_ctrl_iff.mp hr
    exact .ctrl v
  | cmd => exact absurd (regAt_eq_cmd_iff.mp hr) ha
  | out | out32 | id | reserved => exact .ignored a v

theorem transact_transacted (x : Option Txn) (s : State) :
    ∃ t, transact x s = .next t ∧ Transacted s x t := by
  obtain _ | ⟨_ | _, a, v⟩ := x
  · exact ⟨s, rfl, .idle⟩
  · exact ⟨_, rfl, .read a v⟩
  · by_cases ha : a = 0x18#6
    · subst ha
      exact exec_regWrite_cmd_transacted v s
    · exact exec_regWrite_transacted ha v s

theorem step_transacted {s t : State} (hrst : s.input.rst = false) (hstep : step s = .next t) :
    Transacted s.beginCycle.enginePhase s.input.txn t := by
  obtain ⟨u, hu, htrans⟩ := transact_transacted s.input.txn s.beginCycle.enginePhase
  rw [step_of_no_rst hrst, hu] at hstep
  cases hstep
  exact htrans

/-! The transactions that can change each register and each flag. -/

namespace Transacted
variable {s t : State} {x : Option Txn} (h : Transacted s x t)
include h

theorem out_eq : t.out = s.out := by
  cases h <;> rfl

theorem key_changed (hne : t.key ≠ s.key) :
    ∃ a v, x = some { we := true, addr := a, wdata := v } ∧ a.toNat ≤ 0x03 := by
  cases h with
  | key a v q ha => exact ⟨a, v, rfl, ha⟩
  | _ => exact absurd rfl hne

theorem blk_changed (hne : t.blk ≠ s.blk) :
    ∃ a v, x = some { we := true, addr := a, wdata := v } ∧ 0x04 ≤ a.toNat ∧ a.toNat ≤ 0x07 := by
  cases h with
  | blk a v q ha => exact ⟨a, v, rfl, ha⟩
  | _ => exact absurd rfl hne

theorem count_changed (hne : t.count ≠ s.count) :
    (∃ v, x = some { we := true, addr := 0x08#6, wdata := v }) ∨
      ∃ v, x = some { we := true, addr := 0x18#6, wdata := v } ∧ fieldOp v ∈ [0x10#8, 0x14#8] := by
  cases h with
  | count v => exact .inl ⟨v, rfl⟩
  | immediate v op count bits hop hcount hbits =>
    have hmem : op ∈ [CmdOp.accClear, .cntInc] := by_contra fun hmem => hne (hcount hmem)
    exact .inr ⟨v, rfl, hop ▸ List.mem_map_of_mem (f := CmdOp.code) hmem⟩
  | _ => exact absurd rfl hne

theorem bits_changed (hne : t.bits ≠ s.bits) :
    (∃ v, x = some { we := true, addr := 0x09#6, wdata := v }) ∨
      ∃ v, x = some { we := true, addr := 0x18#6, wdata := v } ∧
        fieldOp v ∈ [0x10#8, 0x11#8, 0x12#8, 0x13#8] := by
  cases h with
  | bits v => exact .inl ⟨v, rfl⟩
  | immediate v op count bits hop hcount hbits =>
    have hmem : op ∈ [CmdOp.accClear, .accSetbit, .accInsert, .accCarry] :=
      by_contra fun hmem => hne (hbits hmem)
    exact .inr ⟨v, rfl, hop ▸ List.mem_map_of_mem (f := CmdOp.code) hmem⟩
  | _ => exact absurd rfl hne

theorem busy_changed (hne : t.busy ≠ s.busy) :
    t.busy = true ∧ ∃ v, x = some { we := true, addr := 0x18#6, wdata := v } ∧
      fieldOp v ∈ [0x01#8, 0x02#8, 0x03#8] := by
  cases h with
  | issued v op b hop hengine =>
    exact ⟨rfl, v, rfl, hop ▸ List.mem_map_of_mem (f := CmdOp.code) hengine⟩
  | _ => exact absurd rfl hne

theorem done_changed (hne : t.done ≠ s.done) :
    t.done = false ∧ ∃ v, x = some { we := true, addr := 0x19#6, wdata := v } ∧
      v.getLsbD 1 = true := by
  cases h with
  | status v =>
    have hbit : v.getLsbD 1 = true := by
      by_contra hclear
      exact hne (by simp only [hclear, Bool.not_false, Bool.and_true])
    exact ⟨by simp only [hbit, Bool.not_true, Bool.and_false], v, rfl, hbit⟩
  | _ => exact absurd rfl hne

theorem err_rises (herr : s.err = false) (hne : t.err ≠ s.err) :
    ∃ v, x = some { we := true, addr := 0x18#6, wdata := v } := by
  cases h with
  | rejected v c => exact ⟨v, rfl⟩
  | status v => simp [herr] at hne
  | _ => exact absurd rfl hne

theorem recorded_error_changed (herr : s.err = true)
    (hne : t.err ≠ s.err ∨ t.errcode ≠ s.errcode) :
    ∃ v, x = some { we := true, addr := 0x19#6, wdata := v } ∧ v.getLsbD 2 = true := by
  cases h with
  | status v =>
    refine ⟨v, rfl, by_contra fun hclear => ?_⟩
    simp_all
  | rejected v c => simp [herr] at hne
  | _ => exact hne.elim (absurd rfl) (absurd rfl)

theorem lastop_changed (hne : t.lastop ≠ s.lastop) :
    ∃ v, x = some { we := true, addr := 0x18#6, wdata := v } ∧ t.lastop = fieldOp v := by
  cases h with
  | immediate v op count bits hop => exact ⟨v, rfl, hop.symm⟩
  | issued v op b hop => exact ⟨v, rfl, hop.symm⟩
  | _ => exact absurd rfl hne

theorem enables_changed (hne : t.doneIe ≠ s.doneIe ∨ t.errIe ≠ s.errIe) :
    ∃ v, x = some { we := true, addr := 0x1A#6, wdata := v } := by
  cases h with
  | ctrl v => exact ⟨v, rfl⟩
  | _ => exact hne.elim (absurd rfl) (absurd rfl)

end Transacted

/-! What phase (a) can change before the transaction. -/

/-- From a legal state phase (a) completes the command in its last cycle, and else writes `REM` at most. -/
theorem Legal.enginePhase_cases {s : State} (h : Legal s) :
    (Completing s ∧ s.beginCycle.enginePhase = s.completed) ∨
      ∃ n, s.beginCycle.enginePhase = s.beginCycle.setRem n := by
  obtain ⟨-, he⟩ | ⟨-, -, he⟩ | ⟨hbusy, hlast, he⟩ := s.beginCycle.enginePhase_cases
  · exact .inr ⟨s.rem, he⟩
  · exact .inr ⟨_, he⟩
  · exact .inl ⟨h.completing hbusy hlast, he⟩

/-- A completion sets `DONE`, and phase (a) never clears it. -/
theorem enginePhase_done_of_done {s : State} (h : s.done = true) : s.enginePhase.done = true := by
  obtain ⟨-, he⟩ | ⟨-, -, he⟩ | ⟨-, -, he⟩ := s.enginePhase_cases
  · rw [he, h]
  · rw [he, State.setRem_done, h]
  · rw [he, State.complete_done]

section Phase
variable {s : State} (h : Legal s)
include h

theorem completed_of_enginePhase_ne {α : Type} (field : State → α)
    (hrem : ∀ n, field (s.beginCycle.setRem n) = field s)
    (hne : field s.beginCycle.enginePhase ≠ field s) :
    Completing s ∧ s.beginCycle.enginePhase = s.completed := by
  obtain hcompleted | ⟨n, he⟩ := h.enginePhase_cases
  · exact hcompleted
  · exact absurd (he ▸ hrem n) hne

theorem enginePhase_key_changed (hne : s.beginCycle.enginePhase.key ≠ s.key) :
    Completing s ∧ s.engOp = CmdOp.rekey.code := by
  obtain ⟨hcompleting, he⟩ := completed_of_enginePhase_ne h State.key (fun _ => rfl) hne
  rw [he] at hne
  exact ⟨hcompleting, by_contra fun hop => hne (completionKey_of_ne hop _ _)⟩

theorem enginePhase_out_changed (hne : s.beginCycle.enginePhase.out ≠ s.out) :
    Completing s ∧
      s.beginCycle.enginePhase.out = CipherCore.encrypt s.engKey s.engIn := by
  obtain ⟨hcompleting, he⟩ := completed_of_enginePhase_ne h State.out (fun _ => rfl) hne
  rw [he]
  exact ⟨hcompleting, rfl⟩

end Phase

/-- Settles O47: a change is the transaction's (`Transacted`), or phase (a)'s, which from a legal state is a completion. -/
theorem dataRegistersChangeOnlyAsListed : Obligations.DataRegistersChangeOnlyAsListed := by
  intro s t hlegal hrst hstep
  have htrans := step_transacted hrst hstep
  refine ⟨fun hne => ?_, fun hne => ?_, fun hne => ?_, fun hne => ?_, fun hne => ?_⟩
  · by_cases hphase : t.key = s.beginCycle.enginePhase.key
    · exact .inr (enginePhase_key_changed hlegal (hphase ▸ hne))
    · obtain ⟨a, v, hx, ha⟩ := htrans.key_changed hphase
      exact .inl ⟨a, v, ⟨hrst, hx⟩, ha⟩
  · obtain ⟨a, v, hx, ha⟩ := htrans.blk_changed (by simpa using hne)
    exact ⟨a, v, ⟨hrst, hx⟩, ha⟩
  · obtain ⟨v, hx⟩ | ⟨v, hx, hop⟩ := htrans.count_changed (by simpa using hne)
    · exact .inl ⟨v, hrst, hx⟩
    · exact .inr ⟨v, ⟨hrst, hx⟩, hop⟩
  · obtain ⟨v, hx⟩ | ⟨v, hx, hop⟩ := htrans.bits_changed (by simpa using hne)
    · exact .inl ⟨v, hrst, hx⟩
    · exact .inr ⟨v, ⟨hrst, hx⟩, hop⟩
  · rw [htrans.out_eq] at hne ⊢
    exact enginePhase_out_changed hlegal hne

/-- Settles O48: as for the data registers; phase (a) changes BUSY and DONE only by a completion, which sets DONE and never BUSY, and no other flag. -/
theorem flagsChangeOnlyAsListed : Obligations.FlagsChangeOnlyAsListed := by
  intro s t hlegal hrst hstep
  have htrans := step_transacted hrst hstep
  refine ⟨fun hs ht => ?_, fun hs ht => ?_, fun hs ht => ?_, fun hs ht => ?_, fun hs ht => ?_,
    fun hs ht => ?_, fun hne => ?_, fun hne => ?_⟩
  · have hphase : s.beginCycle.enginePhase = s.beginCycle := State.enginePhase_idle hs
    rw [hphase] at htrans
    obtain ⟨-, v, hx, hop⟩ := htrans.busy_changed (by simp [hs, ht])
    exact ⟨v, ⟨hrst, hx⟩, hop⟩
  · have hphase : t.busy = s.beginCycle.enginePhase.busy :=
      by_contra fun hne => absurd (htrans.busy_changed hne).1 (by simp [ht])
    exact (completed_of_enginePhase_ne hlegal State.busy (fun _ => rfl)
      (by simp [← hphase, hs, ht])).1
  · have hphase : t.done = s.beginCycle.enginePhase.done :=
      by_contra fun hne => absurd (htrans.done_changed hne).1 (by simp [ht])
    exact (completed_of_enginePhase_ne hlegal State.done (fun _ => rfl)
      (by simp [← hphase, hs, ht])).1
  · have hphase : s.beginCycle.enginePhase.done = true := enginePhase_done_of_done hs
    obtain ⟨-, v, hx, hbit⟩ := htrans.done_changed (by simp [hphase, ht])
    exact ⟨v, ⟨hrst, hx⟩, hbit⟩
  · obtain ⟨v, hx⟩ := htrans.err_rises (by simpa using hs) (by simp [hs, ht])
    exact ⟨v, hrst, hx⟩
  · obtain ⟨v, hx, hbit⟩ := htrans.recorded_error_changed (by simpa using hs)
      (by simpa [hs] using ht)
    exact ⟨v, ⟨hrst, hx⟩, hbit⟩
  · obtain ⟨v, hx, hop⟩ := htrans.lastop_changed (by simpa using hne)
    exact ⟨v, ⟨hrst, hx⟩, hop⟩
  · obtain ⟨v, hx⟩ := htrans.enables_changed (by simpa using hne)
    exact ⟨v, hrst, hx⟩

end Sys2Proof.Machine
end

section
/-! The statement of 10_state.md section 4 that DONE, ERR, ERRCODE and the enables steer nothing. -/

namespace Sys2Proof.Machine

/-- What `f` leaves, but for the sticky flags and the returned value, does not depend on them. -/
def IgnoresFlags (f : State → State) : Prop :=
  ∀ s, (f s).withoutFlags = (f s.withoutFlags).withoutFlags

theorem IgnoresFlags.congr {f : State → State} (hf : IgnoresFlags f) {s1 s2 : State}
    (h : s1.withoutFlags = s2.withoutFlags) : (f s1).withoutFlags = (f s2).withoutFlags := by
  rw [hf s1, h, ← hf s2]

theorem ignoresFlags_cmdError (c : ErrCode) : IgnoresFlags (·.cmdError c) := by
  intro s
  simp only [State.cmdError_eq]
  rfl

theorem IgnoresFlags.whenIdle {f : State → State} (hf : IgnoresFlags f) :
    IgnoresFlags (·.whenIdle f) := by
  intro s
  cases hbusy : s.busy with
  | true =>
    simp only [State.whenIdle_busy hbusy, State.whenIdle_busy (s := s.withoutFlags) hbusy]
    exact ignoresFlags_cmdError .busy s
  | false =>
    simp only [State.whenIdle_idle hbusy, State.whenIdle_idle (s := s.withoutFlags) hbusy]
    exact hf s

theorem IgnoresFlags.whenArgs {f : State → State} (hf : IgnoresFlags f) (ok : Bool) :
    IgnoresFlags (·.whenArgs ok f) := by
  cases ok with
  | true => exact hf
  | false => exact ignoresFlags_cmdError .invalidArg

theorem ignoresFlags_writeReg (r : RegName) (v : Word) : IgnoresFlags (·.writeReg r v) := by
  intro s
  cases r with
  | status =>
    simp only [State.writeReg, State.writeStatus_eq]
    rfl
  | key | blk | count | bits | ctrl | out | out32 | cmd | id | reserved => rfl

theorem ignoresFlags_enginePhase : IgnoresFlags State.enginePhase := by
  intro s
  obtain ⟨hbusy, he⟩ | ⟨hbusy, hrem, he⟩ | ⟨hbusy, hlast, he⟩ := s.enginePhase_cases
  · rw [he, State.enginePhase_idle (s := s.withoutFlags) hbusy]
    rfl
  · rw [he, State.enginePhase_running (s := s.withoutFlags) hbusy hrem]
    rfl
  · rw [he, State.enginePhase_last (s := s.withoutFlags) hbusy hlast]
    rfl

theorem exec_instr_ignoresFlags (op : CmdOp) (imm : Half) (b a : Byte) :
    ∃ f, IgnoresFlags f ∧ ∀ s, exec (op.instr imm b a) s = .next (f s) := by
  cases op with
  | nop | encrypt | mash | rekey | accClear | cntInc =>
    exact ⟨_, .whenIdle fun _ => rfl, fun _ => rfl⟩
  | accSetbit | accInsert | accCarry =>
    exact ⟨_, .whenIdle (.whenArgs (fun _ => rfl) _), fun _ => rfl⟩

theorem exec_regWrite_cmd_ignoresFlags (v : Word) :
    ∃ f, IgnoresFlags f ∧ ∀ s, exec (.regWrite 0x18#6 v) s = .next (f s) := by
  cases hdec : decodeCmd v with
  | error c =>
    refine ⟨_, (ignoresFlags_cmdError c).whenIdle, fun s => ?_⟩
    cases hbusy : s.busy with
    | true => rw [exec_regWrite_cmd_of_busy hbusy, State.whenIdle_busy hbusy]
    | false => rw [exec_regWrite_cmd_of_decodeCmd_error hbusy hdec, State.whenIdle_idle hbusy]
  | ok i =>
    obtain ⟨op, -, -, -, rfl⟩ := decodeCmd_eq_ok_iff.mp hdec
    simp only [exec_regWrite_cmd_of_decodes hdec]
    exact exec_instr_ignoresFlags op _ _ _

theorem transact_ignoresFlags (x : Option Txn) :
    ∃ f, IgnoresFlags f ∧ ∀ s, transact x s = .next (f s) := by
  obtain _ | ⟨_ | _, a, v⟩ := x
  · exact ⟨id, fun _ => rfl, fun _ => rfl⟩
  · exact ⟨fun s => s.setRdata (some (readReg s a)), fun _ => rfl, fun _ => rfl⟩
  · by_cases ha : a = 0x18#6
    · subst ha
      exact exec_regWrite_cmd_ignoresFlags v
    · exact ⟨_, ignoresFlags_writeReg (regAt a) v, exec_regWrite ha v⟩

/-! The returned value. -/

/-- What the port returns in a cycle without reset that carries `x`, in the state phase (a) left: the value read (R33), and none without a read (log 3). -/
def portValue (x : Option Txn) (s : State) : Option Word :=
  match x with
  | none => none
  | some y => if y.we then none else some (readReg s y.addr)

theorem Transacted.rdata_eq {s t : State} {x : Option Txn} (h : Transacted s x t)
    (hnone : s.rdata = none) : t.rdata = portValue x s := by
  cases h with
  | read => rfl
  | _ => exact hnone

/-- Only `STATUS` and `CTRL` read as something of the sticky flags. -/
theorem readReg_withoutFlags (s : State) {a : Addr} (hstatus : a ≠ 0x19#6) (hctrl : a ≠ 0x1A#6) :
    readReg s.withoutFlags a = readReg s a := by
  unfold readReg
  cases hr : regAt a with
  | status => exact absurd (regAt_eq_status_iff.mp hr) hstatus
  | ctrl => exact absurd (regAt_eq_ctrl_iff.mp hr) hctrl
  | key | blk | count | bits | out | out32 | cmd | id | reserved => rfl

theorem portValue_congr {s1 s2 : State} {x : Option Txn} (h : s1.withoutFlags = s2.withoutFlags)
    (hx : ∀ y : Txn, x = some y → y.addr ≠ 0x19#6 ∧ y.addr ≠ 0x1A#6) :
    portValue x s1 = portValue x s2 := by
  cases x with
  | none => rfl
  | some y =>
    obtain ⟨hstatus, hctrl⟩ := hx y rfl
    rw [portValue, portValue, ← readReg_withoutFlags s1 hstatus hctrl, h,
      readReg_withoutFlags s2 hstatus hctrl]

/-- Settles O49: a reset cycle, phase (a) and every transaction ignore the sticky flags (`IgnoresFlags`), and so does `portValue` at the other addresses. -/
theorem stickyFlagsSteerNothing : Obligations.StickyFlagsSteerNothing := by
  intro s1 s2 h
  have hinput : s1.input = s2.input := by
    have hhost := congrArg State.input h
    exact hhost
  cases hrst : s1.input.rst with
  | true =>
    refine ⟨_, _, step_of_rst hrst, step_of_rst (hinput ▸ hrst), ?_, fun _ => ?_⟩
    · rw [← hinput]
      exact IgnoresFlags.congr (f := fun s => s.beginCycle.resetCycle s1.input.txn)
        (fun _ => rfl) h
    · rw [← hinput]
      rfl
  | false =>
    have hrst2 : s2.input.rst = false := hinput ▸ hrst
    have hbegin : s1.beginCycle.withoutFlags = s2.beginCycle.withoutFlags :=
      IgnoresFlags.congr (f := State.beginCycle) (fun _ => rfl) h
    have hphase := ignoresFlags_enginePhase.congr hbegin
    obtain ⟨f, hf, hexec⟩ := transact_ignoresFlags s1.input.txn
    have ht1 : step s1 = .next (f s1.beginCycle.enginePhase) :=
      (step_of_no_rst hrst).trans (hexec _)
    have ht2 : step s2 = .next (f s2.beginCycle.enginePhase) := by
      rw [step_of_no_rst hrst2, ← hinput, hexec]
    refine ⟨_, _, ht1, ht2, hf.congr hphase, fun hx => ?_⟩
    rw [(step_transacted hrst ht1).rdata_eq (by simp),
      (step_transacted hrst2 ht2).rdata_eq (by simp), ← hinput, portValue_congr hphase hx]

end Sys2Proof.Machine
end
